-- ==== Sys2Proof/Word.lean ====
section
/-! DEFINITION. The word types of the codec: every frame field is a whole number of 8-bit bytes and the command
code and the device ID are 16 bits (spec/00_scope.md R8, R9). -/

namespace Sys2Proof

/-- A byte, 0..255 (R9). -/
abbrev Byte := BitVec 8

/-- A 16-bit value: a command code, a device ID (R8). -/
abbrev Half := BitVec 16

/-- A 4-bit operation-select code (R80). -/
abbrev OpCode := BitVec 4

end Sys2Proof
end

