-- ==== Sys2Proof/Config.lean ====
section
/-! DEFINITION. What an instance of the block fixes (spec/00_scope.md R7), the constants of the frame format
(spec/10_state.md R29), the choices the transport makes at each call (spec/43_exchange.md R140) and the free values
behind them (spec/93_implementation_defined.md items 6, 7, 8, 14). -/

namespace Sys2Proof

/-- Why a transport call failed: the `reason` of R140 and R160. -/
inductive Reason where
  /-- `IO_ERROR`. -/
  | ioError
  /-- `CLOSED`: the transport was closed during the call (R143). -/
  | closed
  /-- `NOT_OPEN`: the transport was closed before the call (R140). -/
  | notOpen
  deriving DecidableEq, Repr, Inhabited

/-- What the transport does with one `TxWrite` while it is open (R140; items 7, 8 and 14 of
93_implementation_defined.md). `sent` is how many bytes of the frame reached the line before the failure, any prefix
(R50); `lost` is how many unread inbound bytes the close discarded (log entry 9). -/
inductive TxChoice where
  /-- The write succeeds. -/
  | ok
  /-- The write fails, and the transport stays as it was (log entry 15). -/
  | fail (reason : Reason) (sent : Nat)
  /-- The environment closes the transport during the write. -/
  | closes (lost : Nat) (sent : Nat)
  deriving DecidableEq, Repr, Inhabited

/-- What the transport does with one `RxRead` while it is open (R140; items 6 and 14 of
93_implementation_defined.md). -/
inductive RxChoice where
  /-- The device's bytes `arrived` reach the transport during the read, and the read returns at most `upTo` bytes. -/
  | data (arrived : List Byte) (upTo : Nat)
  /-- The read times out (log entry 20). -/
  | timeout
  /-- The read fails, and the transport stays as it was (log entry 15). -/
  | fail (reason : Reason)
  /-- The environment closes the transport during the read (R143), which discards `lost` unread bytes. -/
  | closes (lost : Nat)
  deriving DecidableEq, Repr, Inhabited

/-- The parameters of one instance (R7). `DEVICE_ID` and `MAX_LENGTH` have one value in this spec and are constants
below. -/
structure Params where
  /-- `CHUNK`: the most bytes one read asks for. -/
  chunk : Nat
  /-- `MAX_ATTEMPTS`: the attempt budget of one READ_FRAME. -/
  maxAttempts : Nat
  /-- `TIMEOUT`: handed to the transport; no rule reads its value (R203). -/
  timeout : Nat
  deriving DecidableEq, Repr

/-- The constraints of R7 and of 92_eei_decisions.md D8 and D18: both budgets are at least 1. -/
def Params.valid (p : Params) : Bool :=
  match p.chunk, p.maxAttempts with
  | _ + 1, _ + 1 => true
  | _, _ => false

namespace Config

/-- `MAX_ATTEMPTS` less one. FREE VALUE: the parameter is OPEN (R7), an integer of at least 1 (R115). Log entry 5. -/
opaque extraAttempts : Nat

/-- `TIMEOUT`. FREE VALUE: the parameter is OPEN and the model never reads it (R7, R203). Log entry 5. -/
opaque timeout : Nat

/-- What the transport does with a write that no entry of `State.writes` settles. FREE VALUE, one for each draw
(item 7 of 93_implementation_defined.md). Log entry 3. -/
opaque freeWrite : Nat → TxChoice

/-- What the transport does with a read that no entry of `State.reads` settles. FREE VALUE, one for each draw
(item 6 of 93_implementation_defined.md). Log entry 3. -/
opaque freeRead : Nat → RxChoice

/-- The instance that `State.reset` powers on: `CHUNK` at its default of 128 (R7), the open parameters free. -/
def params : Params :=
  { chunk := 128, maxAttempts := extraAttempts + 1, timeout := timeout }

/-- `DEVICE_ID`: fixed at `0x0000` (R7). -/
def deviceId : Half := 0x0000#16

/-- `MAX_LENGTH`: the largest legal length byte (R7). -/
def maxLength : Nat := 255

/-- `PRE1` (R29). -/
def pre1 : Byte := 0xAA#8
/-- `PRE2` (R29). -/
def pre2 : Byte := 0xBB#8
/-- `RSV`: the reserved byte (R29). -/
def rsv : Byte := 0x00#8
/-- `ESC`: the byte that is stuffed (R29). -/
def esc : Byte := 0xAA#8
/-- `STUFF`: the byte inserted after `ESC` on the wire (R29). -/
def stuffByte : Byte := 0x00#8
/-- `STATUS_OK` (R29). -/
def statusOk : Byte := 0x00#8
/-- `HDR_LEN_CONST`: the length of reserved, device ID and command code (R29). -/
def hdrLen : Nat := 5

end Config

end Sys2Proof
end

