-- ==== Sys2Proof/Syntax.lean ====
section
/-! DEFINITION. The operations of the request port and the wire patterns, one constructor for each row of
spec/opcode_table.json, and the raw forms they are read from: a request as it stands on the port and a window of wire
bytes (spec/30_encoding.md R80, R81, R82; spec/10_state.md R30). -/

namespace Sys2Proof

/-- One row of spec/opcode_table.json with its operands. -/
inductive Instr where
  /-- ENCODE (R103): build a request frame. -/
  | encode (cmd : Half) (segs : List (List Byte))
  /-- DECODE (R126): validate a raw buffer and extract its payload. -/
  | decode (raw : List Byte)
  /-- READ_FRAME (R113): accumulate one frame from the transport. -/
  | readFrame
  /-- READ_STEP (R114): one iteration of READ_FRAME; internal, illegal on the port (R81). -/
  | readStep
  /-- EXCHANGE (R141): encode, write, read, decode. -/
  | exchange (cmd : Half) (segs : List (List Byte))
  /-- XORFOLD (R100). -/
  | xorfold (bs : List Byte)
  /-- BE16 (R101). -/
  | be16 (v : Half)
  /-- FRAME_LENGTH (R102). -/
  | frameLength (segs : List (List Byte))
  /-- STUFF_COUNT (R110). -/
  | stuffCount (bs : List Byte)
  /-- EXPECTED_TOTAL (R111). -/
  | expectedTotal (bs : List Byte)
  /-- COMPLETE (R112). -/
  | complete (bs : List Byte)
  /-- DESTUFF (R125). -/
  | destuff (bs : List Byte)
  /-- ILLEGAL (R81): a code that selects no operation, or a request with an argument of the wrong shape. -/
  | illegal (op : OpCode)
  /-- W_PREAMBLE (R82): the window at offsets 0-1, with the two bytes found there. -/
  | wPreamble (b0 b1 : Byte)
  /-- W_REQ_HEADER (R82): the window at offsets 0-7 of a request, with its length byte and command code. -/
  | wReqHeader (len : Byte) (cmd : Half)
  /-- W_ESC_BYTE (R82): a byte `0xAA` at offset 2 or later. -/
  | wEscByte
  /-- W_ESC_PAIR (R82): the bytes `0xAA 0x00` at offset 3 or later. -/
  | wEscPair
  /-- W_STATUS_OK (R82): the byte `0x00` at offset 8 of the raw buffer. -/
  | wStatusOk
  /-- W_STATUS_ERR (R82): any other byte at offset 8 of the raw buffer. -/
  | wStatusErr (status : Byte)
  deriving DecidableEq, Repr

/-- A request as the command layer issues it: the tuple `(OP, args)` of R30. The argument lines carry naturals, so
that an argument of the wrong shape (a command code wider than 16 bits, a non-byte element, R81) can stand on the
port. An operation reads only the lines R80 gives it. -/
structure Request where
  /-- The operation-select field. -/
  op : OpCode
  /-- `cmd` of ENCODE and EXCHANGE, `v` of BE16. -/
  cmd : Nat
  /-- `segs` of ENCODE, EXCHANGE and FRAME_LENGTH. -/
  segs : List (List Nat)
  /-- `raw` of DECODE, `bs` of the other functions. -/
  bytes : List Nat
  deriving DecidableEq, Repr

/-- Which recogniser looks at a window: the `window` column of R82. -/
inductive WireSite where
  | preamble
  | reqHeader
  | escByte
  | escPair
  | status
  deriving DecidableEq, Repr

/-- A window of wire bytes: who looks at it, the offset of its first byte, and its bytes (R82). -/
structure WireWindow where
  site : WireSite
  offset : Nat
  bytes : List Byte
  deriving DecidableEq, Repr

/-- What the decoder reads an instruction from. -/
inductive Code where
  | request (r : Request)
  | window (w : WireWindow)
  deriving DecidableEq, Repr

end Sys2Proof
end

