-- ==== Sys2Proof/Machine/State.lean ====
section
/-! DEFINITION. The state of the block and of what it shares with its environment, as plain data, and its value at
power-on (spec/10_state.md R20, R32; spec/70_reset_and_hazards.md R190). -/

namespace Sys2Proof.Machine

/-- `LOCK` (R20, R23): the exclusive-access token on the transport. -/
inductive Lock where
  | free
  | held
  deriving DecidableEq, Repr

/-- `XPHASE` (R20, R24): the place in an EXCHANGE. -/
inductive XPhase where
  | idle
  | encode
  | write
  | read
  | decode
  deriving DecidableEq, Repr

/-- `RPHASE` (R20, R24): the place in a READ_FRAME. -/
inductive RPhase where
  | idle
  | reading
  | done
  | failed
  deriving DecidableEq, Repr

/-- `TSTATE` (R32): the state of the transport handle. -/
inductive TState where
  | closed
  | opened
  deriving DecidableEq, Repr

/-- The error kinds of R160, each with the info it records. -/
inductive Error where
  /-- `TransportError(reason)`. -/
  | transportError (reason : Reason)
  /-- `ReadTimeout(attempts made, bytes held)`. -/
  | readTimeout (attempts held : Nat)
  /-- `InvalidPreamble(the first min(2, len) bytes)`. -/
  | invalidPreamble (first : List Byte)
  /-- `InvalidChecksum(computed XOR, received byte)`. -/
  | invalidChecksum (computed received : Byte)
  /-- `DeviceStatusError(status byte)`. -/
  | deviceStatusError (status : Byte)
  /-- `FrameTooLarge(the length L)`. -/
  | frameTooLarge (length : Nat)
  /-- `FrameTooShort(length reached)`. -/
  | frameTooShort (length : Nat)
  /-- `IllegalOperation(the OP value)`. -/
  | illegalOperation (op : OpCode)
  deriving DecidableEq, Repr

/-- A result, of the type the `result` column of R80 gives the operation (log entry 7). -/
inductive Value where
  | bytes (bs : List Byte)
  | natural (n : Nat)
  | boolean (b : Bool)
  deriving DecidableEq, Repr

/-- `RES` (R20). -/
inductive Res where
  | none
  | ok (v : Value)
  | err (e : Error)
  deriving DecidableEq, Repr

/-- One move of one agent (R54). The environment's moves are those the spec names; their order is the environment's
choice (log entry 4). -/
inductive Turn where
  /-- The block makes its next move. -/
  | block
  /-- The reader or the decoder looks at a window of wire bytes (R82). It has an effect only where the window is one of the
  buffer that is decoded (log entry 10). -/
  | window (w : WireWindow)
  /-- The environment opens the transport (R192). -/
  | opens
  /-- The environment closes the transport (R143), which discards `lost` unread bytes (log entry 9). -/
  | closes (lost : Nat)
  /-- The device sends bytes (R140). -/
  | sends (bs : List Byte)
  /-- A caller issues a request, to be accepted after `ahead` of the requests that wait already (R57; log entry 13). -/
  | issues (r : Request) (ahead : Nat)
  /-- The command layer reads the payload of `RES` (R35). -/
  | takesPayload
  deriving DecidableEq, Repr

/-- The state. The first seven fields are the elements of R20; `tstate`, `inbound`, `outbound` and `port` are the
block's two ports (R30, R32, R34, R57); `params` is fixed at instantiation (R7, R28); the last four are the model's
own (log entries 2, 3, 4). -/
structure State where
  /-- `LOCK`. -/
  lock : Lock
  /-- `XPHASE`. -/
  xphase : XPhase
  /-- `TXF`. -/
  txf : List Byte
  /-- `RPHASE`. -/
  rphase : RPhase
  /-- `RBUF`. -/
  rbuf : List Byte
  /-- `ATT`. -/
  att : Nat
  /-- `RES`. -/
  res : Res
  /-- `TSTATE`. -/
  tstate : TState
  /-- The inbound stream: bytes the device has sent and no read has returned (R51). -/
  inbound : List Byte
  /-- The outbound stream: every byte that has reached the line, the oldest first (R55). -/
  outbound : List Byte
  /-- The requests at the port, in the order they are accepted; the first is the one that runs, once accepted (R57). -/
  port : List Request
  /-- The parameters of the instance. -/
  params : Params
  /-- Which agent moves next; the block does where nothing is listed. -/
  turns : List Turn
  /-- The transport's choices for the next writes. -/
  writes : List TxChoice
  /-- The transport's choices for the next reads. -/
  reads : List RxChoice
  /-- How many free values have been drawn. -/
  draws : Nat
  deriving DecidableEq, Repr

/-- Why the machine stops. -/
inductive Fault where
  /-- Raised by the turn in which the command layer reads a payload from `RES = NONE`: "a model treats reading a
  payload from `NONE` as a fault" (R35). Safe: the spec asks for it. -/
  | payloadOfNone
  deriving DecidableEq, Repr

/-- Why the model has no next state to give. -/
inductive Refusal where
  /-- Answered by an arm of `exec` for an instruction that has no meaning. Safe. No arm uses it. -/
  | notModelled (mnemonic : String)
  /-- Answered by `step` for an instance with `MAX_ATTEMPTS = 0` or `CHUNK = 0`: the instance "is refused by the
  model" (R115). For `CHUNK` see log entry 6. Safe: the spec asks for it. -/
  | invalidInstance
  deriving DecidableEq, Repr

/-- Power-on of an instance (R190): the reset column of R20, `TSTATE` closed. The streams and the port are empty and
the environment's choices open (log entry 19). -/
def State.powerOn (p : Params) : State :=
  { lock := .free, xphase := .idle, txf := [], rphase := .idle, rbuf := [], att := 0, res := .none,
    tstate := .closed, inbound := [], outbound := [], port := [], params := p,
    turns := [], writes := [], reads := [], draws := 0 }

/-- The machine right after reset: power-on of an instance whose open parameters are free (R7, R190). -/
def State.reset : State := State.powerOn Config.params

end Sys2Proof.Machine
end

