-- ==== Sys2Proof/Machine/Flags.lean ====
section
/-! DEFINITION. The block has no condition flags: the outcome of an operation is `RES` with the error kinds of
spec/60_exceptions.md (spec/10_state.md R27). This file gives those outcomes their codes (R160) and classes (R161). -/

namespace Sys2Proof.Machine

/-- The numeric code of an error kind (R160). -/
def Error.code : Error → Nat
  | .transportError _ => 1
  | .readTimeout _ _ => 2
  | .invalidPreamble _ => 3
  | .invalidChecksum _ _ => 4
  | .deviceStatusError _ => 5
  | .frameTooLarge _ => 6
  | .frameTooShort _ => 7
  | .illegalOperation _ => 8

/-- The classes of R161; they change nothing in the block's behaviour. -/
inductive ErrorClass where
  | transport
  | protocol
  | domain
  | request
  deriving DecidableEq, Repr

/-- The class of an error kind (R161). -/
def Error.errorClass : Error → ErrorClass
  | .transportError _ => .transport
  | .readTimeout _ _ => .protocol
  | .invalidPreamble _ => .protocol
  | .invalidChecksum _ _ => .protocol
  | .frameTooShort _ => .protocol
  | .deviceStatusError _ => .domain
  | .frameTooLarge _ => .request
  | .illegalOperation _ => .request

/-- The code that stands in `RES`: 0 for success (R160), none before the first operation ends (R35). -/
def Res.code : Res → Option Nat
  | .none => Option.none
  | .ok _ => some 0
  | .err e => some e.code

/-- The payload that `RES` carries: a result, never with an error (R166). -/
def Res.payload : Res → Option Value
  | .none => Option.none
  | .ok v => some v
  | .err _ => Option.none

/-- `RES` for an operation that answers a value or raises an error (R165). -/
def Res.ofExcept {α : Type} (f : α → Value) : Except Error α → Res
  | .ok a => .ok (f a)
  | .error e => .err e

end Sys2Proof.Machine
end

