-- ==== Sys2Proof/Machine/Operands.lean ====
section
/-! DEFINITION. The functions over byte sequences that the operations are made of: the encoder's (spec/40_encoder.md
R100 to R103), the reader's length rule (spec/41_reader.md R110 to R112), stuffing (spec/30_encoding.md R69) and the
decoder's (spec/42_decoder.md R125, R126). -/

namespace Sys2Proof.Machine

/-- `bs[lo..hi)` (R9). -/
def slice (bs : List Byte) (lo hi : Nat) : List Byte := (bs.take hi).drop lo

/-! ## The encoder -/

/-- `xorfold` (R100). -/
def xorfold : List Byte → Byte
  | [] => 0x00#8
  | b :: bs => b ^^^ xorfold bs

/-- `be16` (R101): the most significant byte first (R46). -/
def be16 (v : Half) : List Byte := [v.extractLsb' 8 8, v.extractLsb' 0 8]

/-- `P`: the sum of the segments' lengths (R102). -/
def payloadLength : List (List Byte) → Nat
  | [] => 0
  | s :: segs => s.length + payloadLength segs

/-- `pay`: the segments in order, without a trace of their boundaries (R103). -/
def payload : List (List Byte) → List Byte
  | [] => []
  | s :: segs => s ++ payload segs

/-- FRAME_LENGTH (R102): the length is never reduced modulo 256. -/
def frameLength (segs : List (List Byte)) : Except Error Nat :=
  let l := Config.hdrLen + payloadLength segs
  if Config.maxLength < l then .error (.frameTooLarge l) else .ok l

/-- `body` of R103: offsets 3 to 7 + P of the frame. -/
def requestBody (cmd : Half) (segs : List (List Byte)) : List Byte :=
  [Config.rsv] ++ be16 Config.deviceId ++ be16 cmd ++ payload segs

/-- A frame around a body: preamble, length byte, body, checksum, nothing stuffed (R63, R103, R104). -/
def frameAround (l : Nat) (body : List Byte) : List Byte :=
  [Config.pre1, Config.pre2, BitVec.ofNat 8 l] ++ body ++ [xorfold body]

/-- ENCODE (R103). -/
def encodeFrame (cmd : Half) (segs : List (List Byte)) : Except Error (List Byte) :=
  match frameLength segs with
  | .error e => .error e
  | .ok l => .ok (frameAround l (requestBody cmd segs))

/-! ## The reader's length rule -/

/-- STUFF_COUNT (R110): the `0xAA` bytes at offset 2 or later, stuffed or not. -/
def stuffCount (bs : List Byte) : Nat := (bs.drop 2).count Config.esc

/-- EXPECTED_TOTAL (R111), in unbounded naturals; none below three bytes, where the source does not compute it. -/
def expectedTotal (bs : List Byte) : Option Nat :=
  match bs[2]? with
  | some l => some (l.toNat + 4 + stuffCount bs)
  | none => none

/-- COMPLETE (R112). -/
def complete (bs : List Byte) : Bool :=
  match expectedTotal bs with
  | some total => decide (total ≤ bs.length)
  | none => false

/-! ## Stuffing -/

/-- `stuff` (R69): each `0xAA` followed by `0x00`. -/
def stuff : List Byte → List Byte
  | [] => []
  | b :: bs => (if b = Config.esc then [Config.esc, Config.stuffByte] else [b]) ++ stuff bs

/-- A well-formed response around a body (R69): the length byte is never stuffed, the checksum is. -/
def responseWire (body : List Byte) : List Byte :=
  [Config.pre1, Config.pre2, BitVec.ofNat 8 body.length] ++ stuff (body ++ [xorfold body])

/-- DESTUFF behind a byte: `prev` is the predecessor in the input, not in the output (R125, decision D4). -/
def destuffAfter (prev : Byte) : List Byte → List Byte
  | [] => []
  | b :: bs =>
    if b = Config.stuffByte ∧ prev = Config.esc then destuffAfter b bs else b :: destuffAfter b bs

/-- DESTUFF (R125): the first byte has no predecessor and stays (decision D5). -/
def destuff : List Byte → List Byte
  | [] => []
  | b :: bs => b :: destuffAfter b bs

/-! ## The decoder -/

/-- Steps 5 and 6 of R126: destuff, then strip reserved, device ID, command code, status and checksum. -/
def extractPayload (r : List Byte) : Except Error (List Byte) :=
  let d := destuff r
  if d.length < 7 then .error (.frameTooShort d.length) else .ok (slice d 6 (d.length - 1))

/-- Step 4 of R126: the checksum over the bytes as they stand before destuffing (R127), then steps 5 and 6. -/
def checkSum (r : List Byte) : Except Error (List Byte) :=
  let computed := xorfold r.dropLast
  let received := r.getLastD 0x00#8
  if computed = received then extractPayload r else .error (.invalidChecksum computed received)

/-- DECODE (R126), the checks in the order of R127. -/
def decodeFrame (raw : List Byte) : Except Error (List Byte) :=
  if raw.take 2 = [Config.pre1, Config.pre2] then
    match raw[8]? with
    | none => .error (.frameTooShort raw.length)
    | some status =>
      if status = Config.statusOk then checkSum (raw.drop 3) else .error (.deviceStatusError status)
  else .error (.invalidPreamble (raw.take 2))

end Sys2Proof.Machine
end

