-- ==== Sys2Proof/Machine/Ops.lean ====
section
/-! DEFINITION. The operations the meanings share: ending an operation with a result or an error (spec/60_exceptions.md
R165), the transport primitives (spec/43_exchange.md R140, R143) and the reader's loop body (spec/41_reader.md R113,
R114). -/

namespace Sys2Proof.Machine

/-! ## Where the block stands (R24) -/

/-- No operation is under way. -/
def State.isIdle (s : State) : Bool :=
  decide (s.xphase = .idle) && decide (s.lock = .free) && decide (s.rphase ≠ .reading)

/-! ## Results and errors -/

/-- A pure operation ends: it writes `RES` and nothing else (R80, R81, R103, R126; log entry 17). -/
def answer (r : Res) (s : State) : State := { s with res := r }

/-- An operation that uses the transport ends, whichever way: `RES` is set, `LOCK` released and `XPHASE` back at
`X_IDLE`; everything else keeps its value (R142, R165). -/
def endOperation (r : Res) (s : State) : State :=
  { s with res := r, lock := .free, xphase := .idle }

/-- TAKING AN EXCEPTION: the operation under way raises an error (R165). -/
def raise (e : Error) (s : State) : State := endOperation (.err e) s

/-- The reader raises an error: `RPHASE` goes to `R_FAILED` as well (R165). -/
def raiseReader (e : Error) (s : State) : State := { raise e s with rphase := .failed }

/-- The return from an operation with a result (R165, R167). -/
def returnOk (v : Value) (s : State) : State := endOperation (.ok v) s

/-! ## The transport -/

/-- The transport is closed, and discards `lost` of the unread bytes (R143; log entry 9). -/
def closeTransport (lost : Nat) (s : State) : State :=
  { s with tstate := .closed, inbound := s.inbound.drop lost }

/-- What a `TxWrite` answers (R140). -/
inductive TxOutcome where
  | ok
  | fail (reason : Reason)
  deriving DecidableEq, Repr

/-- What an `RxRead` answers (R140). -/
inductive RxOutcome where
  | data (bs : List Byte)
  | timeout
  | fail (reason : Reason)
  deriving DecidableEq, Repr

/-- The transport's choice for a write: the next one listed, else a free value (log entries 2 and 3). -/
def chooseWrite (s : State) : TxChoice × State :=
  match s.writes with
  | c :: cs => (c, { s with writes := cs })
  | [] => (Config.freeWrite s.draws, { s with draws := s.draws + 1 })

/-- The transport's choice for a read: the next one listed, else a free value (log entries 2 and 3). -/
def chooseRead (s : State) : RxChoice × State :=
  match s.reads with
  | c :: cs => (c, { s with reads := cs })
  | [] => (Config.freeRead s.draws, { s with draws := s.draws + 1 })

/-- A write of `bs` with a given choice: on failure a prefix may have reached the line (R50; log entry 22). -/
def applyWrite (bs : List Byte) (c : TxChoice) (s : State) : TxOutcome × State :=
  match c with
  | .ok => (.ok, { s with outbound := s.outbound ++ bs })
  | .fail reason sent => (.fail reason, { s with outbound := s.outbound ++ bs.take sent })
  | .closes lost sent => (.fail .closed, closeTransport lost { s with outbound := s.outbound ++ bs.take sent })

/-- A read of at most `n` bytes with a given choice: bytes come from the front of the inbound stream, in order, and
what is not returned stays (R51). -/
def applyRead (n : Nat) (c : RxChoice) (s : State) : RxOutcome × State :=
  match c with
  | .data arrived upTo =>
    (.data ((s.inbound ++ arrived).take (min upTo n)),
      { s with inbound := (s.inbound ++ arrived).drop (min upTo n) })
  | .timeout => (.timeout, s)
  | .fail reason => (.fail reason, s)
  | .closes lost => (.fail .closed, closeTransport lost s)

/-- `TxWrite(bs)` (R140): `NOT_OPEN` while the transport is closed. -/
def txWrite (bs : List Byte) (s : State) : TxOutcome × State :=
  match s.tstate with
  | .closed => (.fail .notOpen, s)
  | .opened => applyWrite bs (chooseWrite s).1 (chooseWrite s).2

/-- `RxRead(n)` (R140): `NOT_OPEN` while the transport is closed. -/
def rxRead (n : Nat) (s : State) : RxOutcome × State :=
  match s.tstate with
  | .closed => (.fail .notOpen, s)
  | .opened => applyRead n (chooseRead s).1 (chooseRead s).2

/-! ## The reader -/

/-- The start of a READ_FRAME (R36, R113). -/
def beginRead (s : State) : State := { s with rbuf := [], att := 0, rphase := .reading }

/-- A read has returned `bs` (R114): completion is tested before the budget (decision D8). -/
def receive (bs : List Byte) (s : State) : State :=
  let s' := { s with rbuf := s.rbuf ++ bs, att := s.att + 1 }
  if complete s'.rbuf then { s' with rphase := .done }
  else if s'.params.maxAttempts ≤ s'.att then raiseReader (.readTimeout s'.att s'.rbuf.length) s'
  else s'

/-- What the reader does with the outcome of a read (R114). -/
def afterRead (r : RxOutcome) (s : State) : State :=
  match r with
  | .timeout => raiseReader (.readTimeout s.att s.rbuf.length) s
  | .fail reason => raiseReader (.transportError reason) s
  | .data bs => receive bs s

/-- One iteration of the reader's loop (R114). -/
def readIteration (s : State) : State :=
  afterRead (rxRead s.params.chunk s).1 (rxRead s.params.chunk s).2

end Sys2Proof.Machine
end

