-- ==== Sys2Proof/Machine/Decoder.lean ====
section
/-! DEFINITION. The meanings of the decoder family: DECODE and DESTUFF (spec/42_decoder.md). -/

namespace Sys2Proof.Machine

/-- DECODE on the port (R126, R134): it reads no state and writes only `RES`. -/
def execDecode (raw : List Byte) (s : State) : Host.Outcome State Fault Refusal :=
  .next (answer (Res.ofExcept .bytes (decodeFrame raw)) s)

/-- DESTUFF on the port (R125). -/
def execDestuff (bs : List Byte) (s : State) : Host.Outcome State Fault Refusal :=
  .next (answer (.ok (.bytes (destuff bs))) s)

end Sys2Proof.Machine
end

