-- ==== Sys2Proof/Machine/Encoder.lean ====
section
/-! DEFINITION. The meanings of the encoder family: ENCODE, XORFOLD, BE16, FRAME_LENGTH (spec/40_encoder.md) and
ILLEGAL (spec/30_encoding.md R81). -/

namespace Sys2Proof.Machine

/-- ENCODE on the port (R103): `RES <- OK(F)`, or FrameTooLarge before any byte is produced. -/
def execEncode (cmd : Half) (segs : List (List Byte)) (s : State) : Host.Outcome State Fault Refusal :=
  .next (answer (Res.ofExcept .bytes (encodeFrame cmd segs)) s)

/-- XORFOLD on the port (R100). -/
def execXorfold (bs : List Byte) (s : State) : Host.Outcome State Fault Refusal :=
  .next (answer (.ok (.bytes [xorfold bs])) s)

/-- BE16 on the port (R101). -/
def execBe16 (v : Half) (s : State) : Host.Outcome State Fault Refusal :=
  .next (answer (.ok (.bytes (be16 v))) s)

/-- FRAME_LENGTH on the port (R102). -/
def execFrameLength (segs : List (List Byte)) (s : State) : Host.Outcome State Fault Refusal :=
  .next (answer (Res.ofExcept .natural (frameLength segs)) s)

/-- ILLEGAL (R81): `RES <- ERR(IllegalOperation, OP)` and no other state. -/
def execIllegal (op : OpCode) (s : State) : Host.Outcome State Fault Refusal :=
  .next (answer (.err (.illegalOperation op)) s)

end Sys2Proof.Machine
end

