-- ==== Sys2Proof/Machine/Exchange.lean ====
section
/-! DEFINITION. The meaning of EXCHANGE (spec/43_exchange.md R141), one move for each phase of `XPHASE`. -/

namespace Sys2Proof.Machine

/-- `X_ENCODE`: the frame is built before `LOCK` is taken, so FrameTooLarge makes no transport call (R141, decision
D20). -/
def exchangeEncode (cmd : Half) (segs : List (List Byte)) (s : State) : State :=
  match encodeFrame cmd segs with
  | .error e => raise e s
  | .ok f => { s with txf := f, lock := .held, xphase := .write }

/-- What follows the write of `X_WRITE`: the read starts, or the error is raised and no read is issued (R141). -/
def afterWrite (r : TxOutcome) (s : State) : State :=
  match r with
  | .fail reason => raise (.transportError reason) s
  | .ok => beginRead { s with xphase := .read }

/-- `X_WRITE`: one write, of `TXF` (R141, R147). -/
def exchangeWrite (s : State) : State :=
  afterWrite (txWrite s.txf s).1 (txWrite s.txf s).2

/-- `X_READ`: READ_FRAME under this exchange's `LOCK`. With the frame complete, write-then-read is over: `LOCK` is
released before the decode (R141, decision D20). No run reaches `X_READ` with the reader idle or failed (log entry
18). -/
def exchangeRead (s : State) : State :=
  match s.rphase with
  | .done => { s with lock := .free, xphase := .decode }
  | .reading => readIteration s
  | .idle => beginRead s
  | .failed => beginRead s

/-- `X_DECODE`: the hand-off is all of `RBUF` (R116). -/
def exchangeDecode (s : State) : State :=
  match decodeFrame s.rbuf with
  | .error e => raise e s
  | .ok p => returnOk (.bytes p) s

/-- EXCHANGE (R141): the move of the phase the exchange is in. -/
def execExchange (cmd : Half) (segs : List (List Byte)) (s : State) : Host.Outcome State Fault Refusal :=
  match s.xphase with
  | .idle => .next { s with xphase := .encode }
  | .encode => .next (exchangeEncode cmd segs s)
  | .write => .next (exchangeWrite s)
  | .read => .next (exchangeRead s)
  | .decode => .next (exchangeDecode s)

end Sys2Proof.Machine
end

