-- ==== Sys2Proof/Machine/Reader.lean ====
section
/-! DEFINITION. The meanings of the reader family: READ_FRAME, READ_STEP, STUFF_COUNT, EXPECTED_TOTAL, COMPLETE
(spec/41_reader.md). -/

namespace Sys2Proof.Machine

/-- READ_FRAME on the port (R113). Accepted, it takes `LOCK` and starts reading; READ_STEP then runs until `RPHASE`
leaves `R_READING`; with the frame complete it hands over all of `RBUF` (R116) and releases `LOCK`. The two moves are
told apart by `LOCK` and `RPHASE` (R24; log entry 1). -/
def execReadFrame (s : State) : Host.Outcome State Fault Refusal :=
  if s.lock = .held ∧ s.rphase = .done then .next (returnOk (.bytes s.rbuf) s)
  else .next (beginRead { s with lock := .held })

/-- READ_STEP: one iteration where a READ_FRAME is under way (R114); anywhere else it was issued on the port, where it
selects no operation (R81; log entry 14). -/
def execReadStep (s : State) : Host.Outcome State Fault Refusal :=
  if s.rphase = .reading then .next (readIteration s)
  else .next (answer (.err (.illegalOperation 0b0100#4)) s)

/-- STUFF_COUNT on the port (R110). -/
def execStuffCount (bs : List Byte) (s : State) : Host.Outcome State Fault Refusal :=
  .next (answer (.ok (.natural (stuffCount bs))) s)

/-- EXPECTED_TOTAL on the port (R111): refused by R81 below three bytes. -/
def execExpectedTotal (bs : List Byte) (s : State) : Host.Outcome State Fault Refusal :=
  match expectedTotal bs with
  | some total => .next (answer (.ok (.natural total)) s)
  | none => .next (answer (.err (.illegalOperation 0b1100#4)) s)

/-- COMPLETE on the port (R112). -/
def execComplete (bs : List Byte) (s : State) : Host.Outcome State Fault Refusal :=
  .next (answer (.ok (.boolean (complete bs))) s)

end Sys2Proof.Machine
end

