-- ==== Sys2Proof/WellFormed.lean ====
section
/-! DEFINITION. Which instructions have the shape that spec/30_encoding.md R80, R81 and R82 give their row. -/

namespace Sys2Proof

/-- The shape checks of R80, R81 and R82 that the types of `Instr` do not make already.
ILLEGAL never stands for READ_FRAME (0011), whose request has no argument to be wrong, nor for READ_STEP (0100), which
has a row of its own. EXPECTED_TOTAL needs three bytes (R111). A preamble window is `AA BB` and a W_STATUS_ERR byte is
not `0x00` (R82). -/
def wellFormed : Instr → Bool
  | .encode _ _ => true
  | .decode _ => true
  | .readFrame => true
  | .readStep => true
  | .exchange _ _ => true
  | .xorfold _ => true
  | .be16 _ => true
  | .frameLength _ => true
  | .stuffCount _ => true
  | .expectedTotal bs => decide (3 ≤ bs.length)
  | .complete _ => true
  | .destuff _ => true
  | .illegal op => decide (op ≠ 0b0011#4) && decide (op ≠ 0b0100#4)
  | .wPreamble b0 b1 => decide (b0 = 0xAA#8) && decide (b1 = 0xBB#8)
  | .wReqHeader _ _ => true
  | .wEscByte => true
  | .wEscPair => true
  | .wStatusOk => true
  | .wStatusErr status => decide (status ≠ 0x00#8)

end Sys2Proof
end

