-- ==== Sys2Proof/Decode.lean ====
section
/-! DEFINITION. Reading an instruction from a request or from a window of wire bytes, total on both, and the encoder
that goes the other way (spec/30_encoding.md R80, R81, R82). A request of the wrong shape is rejected by name: it
reads as ILLEGAL with its operation code. -/

namespace Sys2Proof

/-! ## Argument shapes (R81) -/

/-- A natural that is a 16-bit value; none where it is wider (R81). -/
def halfOf (n : Nat) : Option Half :=
  if n < 65536 then some (BitVec.ofNat 16 n) else none

/-- A natural that is a byte; none where it is a non-byte element (R81). -/
def byteOf (n : Nat) : Option Byte :=
  if n < 256 then some (BitVec.ofNat 8 n) else none

/-- A byte sequence; none where an element is no byte. -/
def bytesOf : List Nat → Option (List Byte)
  | [] => some []
  | n :: ns =>
    match byteOf n, bytesOf ns with
    | some b, some bs => some (b :: bs)
    | _, _ => none

/-- A list of segments; none where an element of one is no byte. -/
def segsOf : List (List Nat) → Option (List (List Byte))
  | [] => some []
  | s :: ss =>
    match bytesOf s, segsOf ss with
    | some b, some bs => some (b :: bs)
    | _, _ => none

/-! ## Requests (R80) -/

/-- The operation a one-sequence request stands for, ILLEGAL where the sequence holds a non-byte element. -/
def withBytes (op : OpCode) (bytes : List Nat) (f : List Byte → Instr) : Instr :=
  match bytesOf bytes with
  | some bs => f bs
  | none => .illegal op

/-- The operation a `(cmd, segs)` request stands for, ILLEGAL where either has the wrong shape. -/
def withCommand (op : OpCode) (cmd : Nat) (segs : List (List Nat)) (f : Half → List (List Byte) → Instr) : Instr :=
  match halfOf cmd, segsOf segs with
  | some c, some ss => f c ss
  | _, _ => .illegal op

/-- The operation a request selects: the table of R80, with R81 for the unused codes and the wrong shapes (log entry
8). -/
def decodeRequest (r : Request) : Instr :=
  match r.op.toNat with
  | 1 => withCommand r.op r.cmd r.segs .encode
  | 2 => withBytes r.op r.bytes .decode
  | 3 => .readFrame
  | 4 => .readStep
  | 5 => withCommand r.op r.cmd r.segs .exchange
  | 8 => withBytes r.op r.bytes .xorfold
  | 9 =>
    match halfOf r.cmd with
    | some v => .be16 v
    | none => .illegal r.op
  | 10 =>
    match segsOf r.segs with
    | some ss => .frameLength ss
    | none => .illegal r.op
  | 11 => withBytes r.op r.bytes .stuffCount
  | 12 => withBytes r.op r.bytes .expectedTotal
  | 13 => withBytes r.op r.bytes .complete
  | 14 => withBytes r.op r.bytes .destuff
  | _ => .illegal r.op

/-! ## Wire patterns (R82) -/

/-- One byte of a wire pattern: `match` and `mask` of R82. -/
structure PatternByte where
  value : Byte
  mask : Byte
  deriving DecidableEq, Repr

/-- A wire pattern, the byte at the lowest offset first (the most significant byte of R82's number). -/
abbrev WirePattern := List PatternByte

/-- Whether a window of bytes has the pattern: as long, and equal to `match` under `mask`. -/
def WirePattern.fits : WirePattern → List Byte → Bool
  | [], [] => true
  | p :: ps, b :: bs => decide (b &&& p.mask = p.value) && WirePattern.fits ps bs
  | _, _ => false

/-- W_PREAMBLE: `0xAABB` under `0xFFFF`. -/
def wirePreamble : WirePattern := [⟨0xAA#8, 0xFF#8⟩, ⟨0xBB#8, 0xFF#8⟩]
/-- W_REQ_HEADER: `0xAABB000000000000` under `0xFFFF00FFFFFF0000`. -/
def wireReqHeader : WirePattern :=
  [⟨0xAA#8, 0xFF#8⟩, ⟨0xBB#8, 0xFF#8⟩, ⟨0x00#8, 0x00#8⟩, ⟨0x00#8, 0xFF#8⟩, ⟨0x00#8, 0xFF#8⟩, ⟨0x00#8, 0xFF#8⟩, ⟨0x00#8, 0x00#8⟩, ⟨0x00#8, 0x00#8⟩]
/-- W_ESC_BYTE: `0xAA` under `0xFF`. -/
def wireEscByte : WirePattern := [⟨0xAA#8, 0xFF#8⟩]
/-- W_ESC_PAIR: `0xAA00` under `0xFFFF`. -/
def wireEscPair : WirePattern := [⟨0xAA#8, 0xFF#8⟩, ⟨0x00#8, 0xFF#8⟩]
/-- W_STATUS_OK: `0x00` under `0xFF`. -/
def wireStatusOk : WirePattern := [⟨0x00#8, 0xFF#8⟩]

/-- The pattern a window shows to the recogniser that looks at it, at the offsets R82 gives; none where it shows
none. -/
def decodeWindow (w : WireWindow) : Option Instr :=
  match w.site, w.bytes with
  | .preamble, [b0, b1] => if w.offset = 0 then some (.wPreamble b0 b1) else none
  | .reqHeader, [b0, b1, l, r, d1, d0, c1, c0] =>
    if w.offset = 0 && wireReqHeader.fits [b0, b1, l, r, d1, d0, c1, c0] then some (.wReqHeader l (c1 ++ c0)) else none
  | .escByte, [b] => if 2 ≤ w.offset && wireEscByte.fits [b] then some .wEscByte else none
  | .escPair, [b0, b1] => if 3 ≤ w.offset && wireEscPair.fits [b0, b1] then some .wEscPair else none
  | .status, [b] =>
    if w.offset = 8 then (if wireStatusOk.fits [b] then some .wStatusOk else some (.wStatusErr b)) else none
  | _, _ => none

/-- THE DECODER: the instruction a request or a window stands for. -/
def decode : Code → Option Instr
  | .request r => some (decodeRequest r)
  | .window w => decodeWindow w

/-! ## The encoder -/

/-- A request that carries a byte sequence. -/
def bytesRequest (op : OpCode) (bs : List Byte) : Code :=
  .request { op := op, cmd := 0, segs := [], bytes := bs.map BitVec.toNat }

/-- A request that carries a 16-bit value and segments. -/
def commandRequest (op : OpCode) (cmd : Half) (segs : List (List Byte)) : Code :=
  .request { op := op, cmd := cmd.toNat, segs := segs.map (List.map BitVec.toNat), bytes := [] }

/-- THE ENCODER: a request or a window that stands for an instruction (R80, R82). ILLEGAL is a request whose
arguments all have the wrong shape, so that it is illegal whichever of them its code reads (R81). -/
def encode : Instr → Code
  | .encode cmd segs => commandRequest 0b0001#4 cmd segs
  | .decode raw => bytesRequest 0b0010#4 raw
  | .readFrame => bytesRequest 0b0011#4 []
  | .readStep => bytesRequest 0b0100#4 []
  | .exchange cmd segs => commandRequest 0b0101#4 cmd segs
  | .xorfold bs => bytesRequest 0b1000#4 bs
  | .be16 v => commandRequest 0b1001#4 v []
  | .frameLength segs => commandRequest 0b1010#4 0 segs
  | .stuffCount bs => bytesRequest 0b1011#4 bs
  | .expectedTotal bs => bytesRequest 0b1100#4 bs
  | .complete bs => bytesRequest 0b1101#4 bs
  | .destuff bs => bytesRequest 0b1110#4 bs
  | .illegal op => .request { op := op, cmd := 65536, segs := [[256]], bytes := [256] }
  | .wPreamble b0 b1 => .window ⟨.preamble, 0, [b0, b1]⟩
  | .wReqHeader l cmd =>
    .window ⟨.reqHeader, 0, [0xAA#8, 0xBB#8, l, 0x00#8, 0x00#8, 0x00#8, cmd.extractLsb' 8 8, cmd.extractLsb' 0 8]⟩
  | .wEscByte => .window ⟨.escByte, 2, [0xAA#8]⟩
  | .wEscPair => .window ⟨.escPair, 3, [0xAA#8, 0x00#8]⟩
  | .wStatusOk => .window ⟨.status, 8, [0x00#8]⟩
  | .wStatusErr status => .window ⟨.status, 8, [status]⟩

/-! ## Words of the opcode table -/

/-- The `n` bytes of a number, the most significant first: a window written as one number (R82). -/
def windowBytes : Nat → Nat → List Byte
  | 0, _ => []
  | n + 1, w => windowBytes n (w / 256) ++ [BitVec.ofNat 8 (w % 256)]

/-- The request a bare word stands for: `OP` in bits 3..0, every argument line zero or empty. -/
def requestOfWord (w : Nat) : Request :=
  { op := BitVec.ofNat 4 w, cmd := 0, segs := [], bytes := [] }

/-- What a word of spec/opcode_table.json stands for. The table lists requests and wire patterns side by side, so the
row with the most fixed bits wins: the patterns with all bits fixed, W_REQ_HEADER for 64 bits, then the operation
codes. A one-byte word that is wider than the 4-bit `OP` is a status byte (log entry 11). -/
def codeOfWord (nbits w : Nat) : Code :=
  if nbits = 8 && w = 0xAA then .window ⟨.escByte, 2, [0xAA#8]⟩
  else if nbits = 8 && w = 0x00 then .window ⟨.status, 8, [0x00#8]⟩
  else if nbits = 8 && 16 ≤ w && w < 256 then .window ⟨.status, 8, windowBytes 1 w⟩
  else if nbits = 16 && w = 0xAABB then .window ⟨.preamble, 0, windowBytes 2 w⟩
  else if nbits = 16 && w = 0xAA00 then .window ⟨.escPair, 3, windowBytes 2 w⟩
  else if nbits = 64 && wireReqHeader.fits (windowBytes 8 w) then .window ⟨.reqHeader, 0, windowBytes 8 w⟩
  else .request (requestOfWord w)

/-- The instruction the decoder reads from a word of spec/opcode_table.json. -/
def decodeTableWord (nbits w : Nat) : Option Instr :=
  decode (codeOfWord nbits w)

end Sys2Proof
end

