-- ==== Sys2Proof/Machine/Wire.lean ====
section
/-! DEFINITION. The meanings of the wire patterns (spec/30_encoding.md R82). They are what the reader and the decoder
recognise, not requests: no state element of R20 records a recognition, so the only effect a pattern has is the error
its row names. That error is the decoder's own, over the raw buffer it has before it: a window of any other bytes has
no effect (log entry 10). What a recogniser computes from the other patterns stands in Operands.lean. -/

namespace Sys2Proof.Machine

/-- The buffer that an instruction hands to the decoder on its own: the argument of DECODE (R126). -/
def decodeArgument : Instr → Option (List Byte)
  | .decode raw => some raw
  | .encode _ _ | .readFrame | .readStep | .exchange _ _ | .xorfold _ | .be16 _ | .frameLength _ | .stuffCount _
  | .expectedTotal _ | .complete _ | .destuff _ | .illegal _ | .wPreamble _ _ | .wReqHeader _ _ | .wEscByte | .wEscPair
  | .wStatusOk | .wStatusErr _ => none

/-- The raw buffer before the decoder: `RBUF` in `X_DECODE` (R116, R141); in an idle block the argument of the DECODE
that is accepted next (R126). At any other time the decoder does not run, and there is none (R54). -/
def rawBuffer (s : State) : Option (List Byte) :=
  if s.xphase = .decode then some s.rbuf
  else if s.isIdle = true then s.port.head?.bind fun r => decodeArgument (decodeRequest r)
  else none

/-- Step 1 of R126 on a window of the two bytes at offsets 0-1: `InvalidPreamble` where the buffer shows them and they
are not `AA BB`. -/
def preambleError (b0 b1 : Byte) (raw : List Byte) : Option Error :=
  if raw.take 2 = [b0, b1] ∧ wirePreamble.fits [b0, b1] = false then some (.invalidPreamble [b0, b1]) else none

/-- Step 2 of R126 on a window of the byte at offset 8: `DeviceStatusError` where the buffer shows it behind the
preamble, which is tested first (R127), and it is not `STATUS_OK`. -/
def statusError (status : Byte) (raw : List Byte) : Option Error :=
  if wirePreamble.fits (raw.take 2) = true ∧ raw[8]? = some status ∧ status ≠ Config.statusOk then
    some (.deviceStatusError status)
  else none

/-- The error that a pattern raises in a state (R82, R126). -/
def patternError (i : Instr) (s : State) : Option Error :=
  match i with
  | .wPreamble b0 b1 => (rawBuffer s).bind (preambleError b0 b1)
  | .wStatusErr status => (rawBuffer s).bind (statusError status)
  | .encode _ _ | .decode _ | .readFrame | .readStep | .exchange _ _ | .xorfold _ | .be16 _ | .frameLength _
  | .stuffCount _ | .expectedTotal _ | .complete _ | .destuff _ | .illegal _ | .wReqHeader _ _ | .wEscByte | .wEscPair
  | .wStatusOk => none

/-- The error is raised, where there is one. -/
def raiseIfAny (e : Option Error) (s : State) : State :=
  match e with
  | none => s
  | some e => raise e s

/-- W_PREAMBLE: `AA BB` starts a frame and the decoder goes on; "anything else raises `InvalidPreamble`" (R82, step 1
of R126). -/
def execWPreamble (b0 b1 : Byte) (s : State) : Host.Outcome State Fault Refusal :=
  .next (raiseIfAny (patternError (.wPreamble b0 b1) s) s)

/-- W_REQ_HEADER: it describes the first eight bytes ENCODE emits (R103); recognising it changes nothing. -/
def execWReqHeader (_len : Byte) (_cmd : Half) (s : State) : Host.Outcome State Fault Refusal := .next s

/-- W_ESC_BYTE: counted as one stuffed pair by `stuffCount` (R110); no state element holds the count. -/
def execWEscByte (s : State) : Host.Outcome State Fault Refusal := .next s

/-- W_ESC_PAIR: its `0x00` is removed by `destuff` (R125); `RBUF` keeps it (R21). -/
def execWEscPair (s : State) : Host.Outcome State Fault Refusal := .next s

/-- W_STATUS_OK: device success, the decoder goes on to step 3 (R126); the status is not kept as state (R27). -/
def execWStatusOk (s : State) : Host.Outcome State Fault Refusal := .next s

/-- W_STATUS_ERR: the decoder raises `DeviceStatusError(S)` (R82, step 2 of R126). -/
def execWStatusErr (status : Byte) (s : State) : Host.Outcome State Fault Refusal :=
  .next (raiseIfAny (patternError (.wStatusErr status) s) s)

end Sys2Proof.Machine
end

