-- ==== Sys2Proof/Machine/Dispatch.lean ====
section
/-! DEFINITION. The meaning of each instruction, one arm per constructor of Instr. -/

namespace Sys2Proof.Machine

def exec (i : Instr) (s : State) : Host.Outcome State Fault Refusal :=
  match i with
  | .encode cmd segs => Sys2Proof.Machine.execEncode cmd segs s
  | .decode raw => Sys2Proof.Machine.execDecode raw s
  | .readFrame => Sys2Proof.Machine.execReadFrame s
  | .readStep => Sys2Proof.Machine.execReadStep s
  | .exchange cmd segs => Sys2Proof.Machine.execExchange cmd segs s
  | .xorfold bs => Sys2Proof.Machine.execXorfold bs s
  | .be16 v => Sys2Proof.Machine.execBe16 v s
  | .frameLength segs => Sys2Proof.Machine.execFrameLength segs s
  | .stuffCount bs => Sys2Proof.Machine.execStuffCount bs s
  | .expectedTotal bs => Sys2Proof.Machine.execExpectedTotal bs s
  | .complete bs => Sys2Proof.Machine.execComplete bs s
  | .destuff bs => Sys2Proof.Machine.execDestuff bs s
  | .illegal op => Sys2Proof.Machine.execIllegal op s
  | .wPreamble b0 b1 => Sys2Proof.Machine.execWPreamble b0 b1 s
  | .wReqHeader len cmd => Sys2Proof.Machine.execWReqHeader len cmd s
  | .wEscByte => Sys2Proof.Machine.execWEscByte s
  | .wEscPair => Sys2Proof.Machine.execWEscPair s
  | .wStatusOk => Sys2Proof.Machine.execWStatusOk s
  | .wStatusErr status => Sys2Proof.Machine.execWStatusErr status s

end Sys2Proof.Machine
end

