-- ==== Sys2Proof/Machine/Sequencer.lean ====
section
/-! DEFINITION. Which agent moves and what the block runs next: accepting requests from the port, running READ_STEP
inside a READ_FRAME, retiring a request when its operation ends, and the environment's moves (spec/20_memory.md R54,
R57; spec/10_state.md R24, R30, R35; spec/43_exchange.md R143). -/

namespace Sys2Proof.Machine

/-- The instruction the block runs next: READ_STEP while `RPHASE = R_READING` (R113), else the request at the head of
the port (R30, R57); none when no request waits. -/
def nextInstr (s : State) : Option Instr :=
  if s.rphase = .reading then some .readStep
  else
    match s.port with
    | [] => none
    | r :: _ => some (decodeRequest r)

/-- The request at the head of the port has been answered and leaves it (R30). -/
def retire (s : State) : State := { s with port := s.port.tail }

/-- A request leaves the port when its operation has ended: the block is idle again. -/
def retireIfEnded (s : State) : State := if s.isIdle = true then retire s else s

/-- `f` on the state of a next outcome. -/
def mapNext (f : State → State) : Host.Outcome State Fault Refusal → Host.Outcome State Fault Refusal
  | .next t => .next (f t)
  | .fault r => .fault r
  | .refused r => .refused r

/-- The block's move. With nothing to run it waits for a request, and nothing changes (log entry 4). -/
def blockMove (run : Instr → State → Host.Outcome State Fault Refusal) (s : State) :
    Host.Outcome State Fault Refusal :=
  match nextInstr s with
  | none => .next s
  | some i => mapNext retireIfEnded (run i s)

/-- A window of wire bytes is looked at (R82). A window that shows no pattern has no effect. A pattern's error ends the
decode under way, and its request is retired as in the block's own move. -/
def windowMove (run : Instr → State → Host.Outcome State Fault Refusal) (w : WireWindow) (s : State) :
    Host.Outcome State Fault Refusal :=
  match decode (.window w) with
  | none => .next s
  | some i =>
    match patternError i s with
    | none => run i s
    | some _ => mapNext retireIfEnded (run i s)

/-- A request arrives at the port: behind `ahead` of the requests that wait, and never before the one that runs
(R57). -/
def issue (r : Request) (ahead : Nat) (s : State) : State :=
  let pos := if s.isIdle = true then ahead else ahead + 1
  { s with port := s.port.take pos ++ r :: s.port.drop pos }

/-- The command layer reads the payload of `RES`: a fault while `RES = NONE` (R35). An error carries no payload (R166)
and reading it shows the error, which changes nothing (log entry 16). -/
def takePayload (s : State) : Host.Outcome State Fault Refusal :=
  match s.res with
  | .none => .fault .payloadOfNone
  | .ok _ => .next s
  | .err _ => .next s

/-- One turn (R54). The transport keeps what the device sends, whether open or closed (log entry 21). -/
def takeTurn (run : Instr → State → Host.Outcome State Fault Refusal) (t : Turn) (s : State) :
    Host.Outcome State Fault Refusal :=
  match t with
  | .block => blockMove run s
  | .window w => windowMove run w s
  | .opens => .next { s with tstate := .opened }
  | .closes lost => .next (closeTransport lost s)
  | .sends bs => .next { s with inbound := s.inbound ++ bs }
  | .issues r ahead => .next (issue r ahead s)
  | .takesPayload => takePayload s

/-- The machine's move: the turn that is listed first, or the block's where none is listed. An instance whose
parameters are not valid is refused (R115, R192). -/
def move (run : Instr → State → Host.Outcome State Fault Refusal) (s : State) : Host.Outcome State Fault Refusal :=
  if s.params.valid = true then
    match s.turns with
    | [] => blockMove run s
    | t :: ts => takeTurn run t { s with turns := ts }
  else .refused .invalidInstance

/-- The block with no operation under way; an idle block is left as it is (log entry 12). -/
def abandon (s : State) : State :=
  if s.isIdle = true then s
  else { s with lock := .free, xphase := .idle, rphase := if s.rphase = .reading then .failed else s.rphase }

/-- A DECODE of a buffer that shows a window at its offset, behind the first bytes of a frame. -/
def decodeShowing (w : WireWindow) : Request :=
  let frame : List Byte := [0xAA#8, 0xBB#8, 0x00#8, 0x00#8, 0x00#8, 0x00#8, 0x00#8, 0x00#8]
  { op := 0b0010#4, cmd := 0, segs := [], bytes := (frame.take w.offset ++ w.bytes).map BitVec.toNat }

/-- A word of the opcode table put where the next move runs it: a request at the head of the port with the block to
move; a wire pattern as the next window, of a buffer whose DECODE is at the head of the port (log entry 12). -/
def placeWord (nbits w : Nat) (s : State) : State :=
  match codeOfWord nbits w with
  | .request r => { abandon s with port := r :: s.port, turns := .block :: s.turns }
  | .window win => { abandon s with port := decodeShowing win :: s.port, turns := .window win :: s.turns }

end Sys2Proof.Machine
end

