-- ==== Sys2Proof/Machine/Step.lean ====
section
/-! DEFINITION. One step of the machine, and how a word is put where the next step fetches it. -/

namespace Sys2Proof.Machine

/-- One step: one move of one agent. -/
def step (s : State) : Host.Outcome State Fault Refusal := move exec s

/-- `s` with a word of the opcode table where `step` fetches its next instruction. -/
def State.withFetchWord (s : State) (nbits w : Nat) : State := placeWord nbits w s

end Sys2Proof.Machine
end

