-- ==== Sys2Proof/Safety.lean ====
section
/-! DEFINITION. What the claims about this machine speak of: runs of the block, whose turn it is, and the invariant of
its control state and buffers. -/

namespace Sys2Proof.Machine

/-- `n` steps of the machine. -/
def runSteps (n : Nat) (s : State) : Host.Outcome State Fault Refusal := Sys2Proof.core.run n s

/-- It is the block's turn in a valid instance, and `ts` are the turns after it. -/
def BlockMoves (s : State) (ts : List Turn) : Prop :=
  s.params.valid = true ∧ ((s.turns = [] ∧ ts = []) ∨ s.turns = .block :: ts)

/-- A valid instance, idle, with only the block to move and one request at the head of the port. -/
def Accepts (s : State) (r : Request) (rest : List Request) : Prop :=
  s.params.valid = true ∧ s.isIdle = true ∧ s.turns = [] ∧ s.port = r :: rest

/-- A read that returns data: the bytes that arrive during it and the most bytes it returns. -/
abbrev DataRead := List Byte × Nat

/-- The choices of a transport whose reads all return data. -/
def dataReads (ds : List DataRead) : List RxChoice :=
  ds.map fun d => .data d.1 d.2

/-- The bytes that arrive during these reads, in order. -/
def arrivals (ds : List DataRead) : List Byte :=
  (ds.map Prod.fst).flatten

/-- How many bytes these reads return together, of at most `limit` each, with `waiting` bytes unread before them
(R49, R51). -/
def bytesTaken (limit : Nat) : Nat → List DataRead → Nat
  | _, [] => 0
  | waiting, d :: ds =>
    let n := min (min d.2 limit) (waiting + d.1.length)
    n + bytesTaken limit (waiting + d.1.length - n) ds

/-- A read's choice that is no I/O failure (R121). -/
def RxChoice.noIoFailure : RxChoice → Bool
  | .data _ _ => true
  | .timeout => true
  | .fail _ => false
  | .closes _ => false

/-- The values that `LOCK`, `XPHASE` and `RPHASE` take together: LOCK is held exactly from the write to the end of the
read (R141) or during a READ_FRAME of the port (R113), and the reader reads only under it (R24). -/
def legalControl : Lock → XPhase → RPhase → Bool
  | .free, .idle, .reading => false
  | .free, .idle, _ => true
  | .held, .idle, .reading => true
  | .held, .idle, .done => true
  | .free, .encode, .reading => false
  | .free, .encode, _ => true
  | .held, .write, .reading => false
  | .held, .write, _ => true
  | .held, .read, .reading => true
  | .held, .read, .done => true
  | .free, .decode, .done => true
  | _, _, _ => false

/-- THE INVARIANT. The bounds of R20, the phases of R24, the budget of R115 and what `RPHASE` says of `RBUF` (R114). -/
structure Inv (s : State) : Prop where
  /-- The instance is valid (R115). -/
  params_valid : s.params.valid = true
  /-- The control state is a legal one. -/
  control : legalControl s.lock s.xphase s.rphase = true
  /-- An EXCHANGE under way is the request at the head of the port (R30). -/
  exchange_runs : s.xphase ≠ .idle →
    ∃ r rest cmd segs, s.port = r :: rest ∧ decodeRequest r = .exchange cmd segs
  /-- A READ_FRAME of the port under way is the request at its head (R30). -/
  readFrame_runs : s.xphase = .idle → s.lock = .held →
    ∃ r rest, s.port = r :: rest ∧ decodeRequest r = .readFrame
  /-- `TXF` is empty or 9 to 259 bytes long (R20). -/
  txf_length : s.txf = [] ∨ (9 ≤ s.txf.length ∧ s.txf.length ≤ 259)
  /-- Before its write, `TXF` is the frame of the exchange under way (R25). -/
  txf_frame : s.xphase = .write →
    ∃ r rest cmd segs, s.port = r :: rest ∧ decodeRequest r = .exchange cmd segs ∧ encodeFrame cmd segs = .ok s.txf
  /-- `ATT` is 0 to `MAX_ATTEMPTS` (R20, R171). -/
  att_budget : s.att ≤ s.params.maxAttempts
  /-- The reader goes on only while the budget lasts (R114). -/
  att_reading : s.rphase = .reading → s.att < s.params.maxAttempts
  /-- `RBUF` holds at most `CHUNK` bytes for each counted read (R20). -/
  rbuf_length : s.rbuf.length ≤ s.params.chunk * s.att
  /-- The reader goes on only while the frame is incomplete (R114). -/
  reading_incomplete : s.rphase = .reading → complete s.rbuf = false
  /-- `R_DONE` means the frame is complete (R24). -/
  done_complete : s.rphase = .done → complete s.rbuf = true

end Sys2Proof.Machine
end

