-- ==== Sys2Proof/Certificates/Slice0/Obligations.lean ====
section
/-! DEFINITION. The statements for the provers. -/

open Sys2Proof Sys2Proof.Machine

/-! ## Reset, step and decoding -/

/-- What power-on leaves (R190): the reset column of R20, and `TSTATE` closed. -/
def Obligations.ResetLeavesPowerOnValues : Prop :=
  State.reset.lock = .free ∧ State.reset.xphase = .idle ∧ State.reset.rphase = .idle ∧
  State.reset.rbuf = [] ∧ State.reset.txf = [] ∧ State.reset.att = 0 ∧ State.reset.res = .none ∧
  State.reset.tstate = .closed

/-- The invariant holds at power-on. -/
def Obligations.ResetMeetsInvariant : Prop := Inv State.reset

/-- In the block's turn, with the reader not reading, a step runs the instruction that the request at the head of the
port decodes to, takes the turn off, and retires the request if the block is idle after it (R30, R57). With no
request it changes nothing else: that is the model's choice (log entry 4). -/
def Obligations.StepRunsRequestAtPort : Prop :=
  ∀ (s : State) (ts : List Turn), BlockMoves s ts → s.rphase ≠ .reading →
    (∀ r rest, s.port = r :: rest →
      step s = mapNext (fun t => if t.isIdle = true then { t with port := t.port.tail } else t)
        (exec (decodeRequest r) { s with turns := ts })) ∧
    (s.port = [] → step s = .next { s with turns := ts })

/-- While the reader reads, the block's turn runs READ_STEP, whatever waits at the port (R113, R57). -/
def Obligations.StepRunsReadStepWhileReading : Prop :=
  ∀ (s : State) (ts : List Turn), BlockMoves s ts → s.rphase = .reading →
    step s = mapNext (fun t => if t.isIdle = true then { t with port := t.port.tail } else t)
      (exec .readStep { s with turns := ts })

/-- When a window of wire bytes is looked at, a step runs the pattern it shows, and has no effect where it shows none.
The request of a decode that the pattern's error ends is retired. That windows are looked at in turns of their own is
the model's choice (log entry 10). -/
def Obligations.StepRunsWirePattern : Prop :=
  ∀ (s : State) (w : WireWindow) (ts : List Turn), s.params.valid = true → s.turns = .window w :: ts →
    (∀ i, decode (.window w) = some i →
      step s = mapNext
        (fun t => if patternError i { s with turns := ts } ≠ none ∧ t.isIdle = true then
          { t with port := t.port.tail } else t)
        (exec i { s with turns := ts })) ∧
    (decode (.window w) = none → step s = .next { s with turns := ts })

/-- Decode and encode agree on every well-formed instruction. -/
def Obligations.EncodedInstructionDecodes : Prop :=
  ∀ i : Instr, wellFormed i = true → decode (encode i) = some i

/-- For every row of the opcode table (R80, R81, R82), a word of it decodes to its instruction. Which row a word of the
joint table belongs to is the model's choice (log entry 11), and so are the zero or empty argument lines of a bare
operation code (log entry 8). -/
def Obligations.TableWordsDecode : Prop :=
  (decodeTableWord 8 0b0001 = some (.encode 0x0000#16 []) ∧
    decodeTableWord 8 0b0010 = some (.decode []) ∧
    decodeTableWord 8 0b0011 = some .readFrame ∧
    decodeTableWord 8 0b0100 = some .readStep ∧
    decodeTableWord 8 0b0101 = some (.exchange 0x0000#16 []) ∧
    decodeTableWord 8 0b1000 = some (.xorfold []) ∧
    decodeTableWord 8 0b1001 = some (.be16 0x0000#16) ∧
    decodeTableWord 8 0b1010 = some (.frameLength []) ∧
    decodeTableWord 8 0b1011 = some (.stuffCount []) ∧
    decodeTableWord 8 0b1100 = some (.expectedTotal []) ∧
    decodeTableWord 8 0b1101 = some (.complete []) ∧
    decodeTableWord 8 0b1110 = some (.destuff []) ∧
    decodeTableWord 16 0x067F = some (.illegal 0b1111#4)) ∧
  (decodeTableWord 16 0xAABB = some (.wPreamble 0xAA#8 0xBB#8) ∧
    decodeTableWord 64 0xAABB0D0000000207 = some (.wReqHeader 0x0D#8 0x0207#16) ∧
    decodeTableWord 8 0xAA = some .wEscByte ∧
    decodeTableWord 16 0xAA00 = some .wEscPair ∧
    decodeTableWord 8 0x00 = some .wStatusOk ∧
    decodeTableWord 8 0x80 = some (.wStatusErr 0x80#8))

/-- Requests that select no operation or whose argument has the wrong shape set `RES` to
`ERR(IllegalOperation, OP)` and change no other state (R81); the answered request leaves the port. -/
def Obligations.IllegalRequestsChangeOnlyRes : Prop :=
  ∀ (s : State) (r : Request) (rest : List Request), Accepts s r rest →
    (r.op = 0b0000#4 ∨ r.op = 0b0110#4 ∨ r.op = 0b0111#4 ∨ r.op = 0b1111#4 ∨ r.op = 0b0100#4 ∨
      ((r.op = 0b0001#4 ∨ r.op = 0b0101#4) ∧ (65536 ≤ r.cmd ∨ ∃ seg ∈ r.segs, ∃ n ∈ seg, 256 ≤ n)) ∨
      (r.op = 0b1001#4 ∧ 65536 ≤ r.cmd) ∨
      (r.op = 0b1010#4 ∧ ∃ seg ∈ r.segs, ∃ n ∈ seg, 256 ≤ n) ∨
      ((r.op = 0b1000#4 ∨ r.op = 0b1011#4 ∨ r.op = 0b1100#4 ∨ r.op = 0b1101#4 ∨ r.op = 0b1110#4) ∧ ∃ n ∈ r.bytes, 256 ≤ n) ∨
      (r.op = 0b1100#4 ∧ r.bytes.length < 3)) →
    step s = .next { s with res := .err (.illegalOperation r.op), port := rest }

/-- ILLEGAL in every state (R81). -/
def Obligations.IllegalCompletes : Prop :=
  ∀ (op : OpCode) (s : State), exec (.illegal op) s = .next { s with res := .err (.illegalOperation op) }

/-! ## The encoder -/

/-- XORFOLD and BE16 in every state (R100, R101): the byte folded with exclusive-or from zero; bits 15..8, then bits
7..0. Nothing but `RES` changes. -/
def Obligations.ByteFunctionsAnswer : Prop :=
  (∀ (bs : List Byte) (s : State),
    exec (.xorfold bs) s = .next { s with res := .ok (.bytes [bs.foldr (fun b x => b ^^^ x) 0x00#8]) }) ∧
  (∀ (v : Half) (s : State),
    exec (.be16 v) s =
      .next { s with res := .ok (.bytes [BitVec.ofNat 8 (v.toNat / 256), BitVec.ofNat 8 (v.toNat % 256)]) })

/-- XORFOLD does not depend on the order of its bytes nor on zero bytes among them (R100). -/
def Obligations.XorfoldIgnoresOrderAndZeros : Prop :=
  ∀ (bs cs : List Byte) (s : State),
    (bs.filter (fun b => decide (b ≠ 0x00#8))).Perm (cs.filter (fun b => decide (b ≠ 0x00#8))) →
    exec (.xorfold bs) s = exec (.xorfold cs) s

/-- FRAME_LENGTH in every state (R102): `5 + P` up to 255, `FrameTooLarge(5 + P)` above, never reduced modulo 256. That
`RES` holds it as a natural is the model's reading (log entry 7). -/
def Obligations.FrameLengthAnswers : Prop :=
  ∀ (segs : List (List Byte)) (s : State),
    (segs.flatten.length ≤ 250 →
      exec (.frameLength segs) s = .next { s with res := .ok (.natural (5 + segs.flatten.length)) }) ∧
    (250 < segs.flatten.length →
      exec (.frameLength segs) s = .next { s with res := .err (.frameTooLarge (5 + segs.flatten.length)) })

/-- ENCODE in every state (R103): the frame of R63 with the segments joined, or `FrameTooLarge(5 + P)`; only `RES`
changes. -/
def Obligations.EncodeAnswersFrame : Prop :=
  ∀ (cmd : Half) (segs : List (List Byte)) (s : State),
    let body : List Byte :=
      [0x00#8, 0x00#8, 0x00#8, BitVec.ofNat 8 (cmd.toNat / 256), BitVec.ofNat 8 (cmd.toNat % 256)] ++ segs.flatten
    (segs.flatten.length ≤ 250 →
      exec (.encode cmd segs) s =
        .next { s with
          res := .ok (.bytes ([0xAA#8, 0xBB#8, BitVec.ofNat 8 (5 + segs.flatten.length)] ++ body ++
            [body.foldr (fun b x => b ^^^ x) 0x00#8])) }) ∧
    (250 < segs.flatten.length →
      exec (.encode cmd segs) s = .next { s with res := .err (.frameTooLarge (5 + segs.flatten.length)) })

/-- The laws of an encoded frame (R106). -/
def Obligations.EncodedFrameLaws : Prop :=
  ∀ (cmd : Half) (segs : List (List Byte)) (s : State), segs.flatten.length ≤ 250 →
    ∃ f : List Byte, exec (.encode cmd segs) s = .next { s with res := .ok (.bytes f) } ∧
      f.take 2 = [0xAA#8, 0xBB#8] ∧
      (f[2]?).map BitVec.toNat = some (5 + segs.flatten.length) ∧
      f[3]? = some 0x00#8 ∧
      slice f 4 6 = [0x00#8, 0x00#8] ∧
      slice f 6 8 = be16 cmd ∧
      slice f 8 (8 + segs.flatten.length) = segs.flatten ∧
      f[8 + segs.flatten.length]? = some (xorfold (slice f 3 (8 + segs.flatten.length))) ∧
      xorfold (f.drop 3) = 0x00#8

/-- Segment boundaries leave no trace in a frame, and an EXCHANGE does the same with either list (R103). -/
def Obligations.SegmentBoundariesLeaveNoTrace : Prop :=
  ∀ (cmd : Half) (segs segs' : List (List Byte)) (s : State), segs.flatten = segs'.flatten →
    exec (.encode cmd segs) s = exec (.encode cmd segs') s ∧
    exec (.exchange cmd segs) s = exec (.exchange cmd segs') s

/-! ## The reader's functions -/

/-- STUFF_COUNT, EXPECTED_TOTAL and COMPLETE in every state (R110, R111, R112); only `RES` changes. That `RES`
holds a natural or a boolean is the model's reading (log entry 7). -/
def Obligations.LengthRuleAnswers : Prop :=
  (∀ (bs : List Byte) (s : State),
    exec (.stuffCount bs) s = .next { s with res := .ok (.natural ((bs.drop 2).count 0xAA#8)) }) ∧
  (∀ (a b l : Byte) (bs : List Byte) (s : State),
    exec (.expectedTotal (a :: b :: l :: bs)) s =
      .next { s with res := .ok (.natural (l.toNat + 4 + (l :: bs).count 0xAA#8)) }) ∧
  (∀ (bs : List Byte) (s : State), bs.length < 3 →
    exec (.expectedTotal bs) s = .next { s with res := .err (.illegalOperation 0b1100#4) } ∧
    exec (.complete bs) s = .next { s with res := .ok (.boolean false) }) ∧
  (∀ (a b l : Byte) (bs : List Byte) (s : State),
    exec (.complete (a :: b :: l :: bs)) s =
      .next { s with res := .ok (.boolean (decide (l.toNat + 4 + (l :: bs).count 0xAA#8 ≤ bs.length + 3))) })

/-- Once complete, complete for every extension (R112). -/
def Obligations.CompletenessIsNeverLost : Prop :=
  ∀ bs more : List Byte, complete bs = true → complete (bs ++ more) = true

/-- The wire length of a well-formed response (R71). -/
def Obligations.WellFormedResponseLength : Prop :=
  ∀ body : List Byte, 6 ≤ body.length → body.length ≤ 255 →
    (responseWire body).length = body.length + 4 + (body ++ [xorfold body]).count 0xAA#8 ∧
    (body.length ≠ 0xAA → expectedTotal (responseWire body) = some (responseWire body).length)

/-- The reader completes a well-formed response exactly at its end (R118). -/
def Obligations.WellFormedResponseCompletesAtItsEnd : Prop :=
  ∀ body : List Byte, 6 ≤ body.length → body.length ≤ 255 → body.length ≠ 0xAA →
    (∀ k, k < (responseWire body).length → complete ((responseWire body).take k) = false) ∧
    complete (responseWire body) = true ∧
    expectedTotal (responseWire body) = some (responseWire body).length

/-- A response whose length byte is `0xAA` is over-counted by one: it stays incomplete until one byte more has come,
whatever that byte is but another `0xAA` (R119, R199). -/
def Obligations.EscapeLengthByteDelaysCompletion : Prop :=
  ∀ (body : List Byte) (b : Byte), body.length = 0xAA →
    complete (responseWire body) = false ∧
    expectedTotal (responseWire body) = some ((responseWire body).length + 1) ∧
    complete (responseWire body ++ [b]) = decide (b ≠ 0xAA#8)

/-! ## The decoder -/

/-- DECODE in every state (R126, R127): the five errors in the order they are tested, else the bytes between the sixth
and the last after destuffing; only `RES` changes. -/
def Obligations.DecodeChecksInOrder : Prop :=
  ∀ (raw : List Byte) (s : State),
    let r := raw.drop 3
    let computed := (r.take (r.length - 1)).foldr (fun b x => b ^^^ x) 0x00#8
    let received := r.getLastD 0x00#8
    let d := destuff r
    exec (.decode raw) s = .next { s with
      res :=
        if raw.take 2 ≠ [0xAA#8, 0xBB#8] then .err (.invalidPreamble (raw.take 2))
        else if raw.length < 9 then .err (.frameTooShort raw.length)
        else if raw[8]? ≠ some 0x00#8 then .err (.deviceStatusError (raw.getD 8 0x00#8))
        else if computed ≠ received then .err (.invalidChecksum computed received)
        else if d.length < 7 then .err (.frameTooShort d.length)
        else .ok (.bytes ((d.take (d.length - 1)).drop 6)) }

/-- DESTUFF in every state (R125): the bytes in order, less every `0x00` whose predecessor in the input is `0xAA`. -/
def Obligations.DestuffDropsZerosAfterEscapes : Prop :=
  ∀ (bs : List Byte) (s : State),
    exec (.destuff bs) s = .next { s with
      res := .ok (.bytes ((List.range bs.length).filterMap fun i =>
        if bs[i]? = some 0x00#8 ∧ 0 < i ∧ bs[i - 1]? = some 0xAA#8 then none else bs[i]?)) }

/-- Destuffing undoes stuffing, and shortens by one byte for each stuffed pair (R125). -/
def Obligations.DestuffUndoesStuff : Prop :=
  ∀ bs : List Byte, destuff (stuff bs) = bs ∧ (stuff bs).length = bs.length + bs.count 0xAA#8

/-- The checksum verdict is the same before and after destuffing, and says that the whole folds to zero (R128). -/
def Obligations.ChecksumVerdictSurvivesDestuffing : Prop :=
  ∀ r : List Byte, r ≠ [] →
    (xorfold r.dropLast = r.getLastD 0x00#8 ↔ xorfold r = 0x00#8) ∧ xorfold (destuff r) = xorfold r

/-- DECODE of a well-formed response without `0xAA` before its status (R131). -/
def Obligations.WellFormedResponseDecodes : Prop :=
  ∀ (rsv devHi devLo cmdHi cmdLo status : Byte) (data : List Byte) (s : State), data.length ≤ 249 →
    rsv ≠ 0xAA#8 → devHi ≠ 0xAA#8 → devLo ≠ 0xAA#8 → cmdHi ≠ 0xAA#8 → cmdLo ≠ 0xAA#8 →
    exec (.decode (responseWire ([rsv, devHi, devLo, cmdHi, cmdLo, status] ++ data))) s =
      .next { s with
        res := if status ≠ 0x00#8 then .err (.deviceStatusError status) else .ok (.bytes data) }

/-- A failing status is missed when the low byte of the response's command code is a stuffed `0xAA` (R130, R200):
DECODE returns the data whatever the status is. -/
def Obligations.StatusMissedBehindStuffedCommand : Prop :=
  ∀ (rsv devHi devLo cmdHi status : Byte) (data : List Byte) (s : State), data.length ≤ 249 →
    rsv ≠ 0xAA#8 → devHi ≠ 0xAA#8 → devLo ≠ 0xAA#8 → cmdHi ≠ 0xAA#8 →
    exec (.decode (responseWire ([rsv, devHi, devLo, cmdHi, 0xAA#8, status] ++ data))) s =
      .next { s with res := .ok (.bytes data) }

/-- The round trip (R132): a request with a leading zero byte decodes to its segments where neither the command code
nor a segment holds `0xAA`; where also the length byte and the checksum are not `0xAA`, the reader completes it exactly
at its end. -/
def Obligations.EncodedRequestDecodesBack : Prop :=
  ∀ (cmd : Half) (segs : List (List Byte)) (s : State), segs.flatten.length ≤ 249 →
    0xAA#8 ∉ be16 cmd → 0xAA#8 ∉ segs.flatten →
    ∃ f : List Byte, exec (.encode cmd ([0x00#8] :: segs)) s = .next { s with res := .ok (.bytes f) } ∧
      exec (.decode f) s = .next { s with res := .ok (.bytes segs.flatten) } ∧
      (f[2]? ≠ some 0xAA#8 → f.getLast? ≠ some 0xAA#8 →
        complete f = true ∧ ∀ k, k < f.length → complete (f.take k) = false)

/-- A single flipped bit in a frame that decodes and has no `0xAA` from offset 3 on (R133). -/
def Obligations.SingleBitFlipsAreReported : Prop :=
  ∀ (f p : List Byte) (k j : Nat) (b : Byte) (s : State),
    exec (.decode f) s = .next { s with res := .ok (.bytes p) } → 0xAA#8 ∉ f.drop 3 →
    f[k]? = some b → j < 8 →
    let flipped := b ^^^ BitVec.twoPow 8 j
    ∃ v : Res, exec (.decode (f.set k flipped)) s = .next { s with res := v } ∧
      (k < 2 → ∃ first, v = .err (.invalidPreamble first)) ∧
      (k = 2 → v = .ok (.bytes p)) ∧
      (k = 8 → v = .err (.deviceStatusError flipped)) ∧
      (3 ≤ k → k ≠ 8 → ∃ computed received, v = .err (.invalidChecksum computed received))

/-! ## READ_FRAME and READ_STEP -/

/-- READ_FRAME accepted: `LOCK` taken, `RBUF` and `ATT` cleared whatever they held, `RPHASE` reading (R36, R113). That
this is a step of its own is the model's choice (log entry 1). -/
def Obligations.ReadFrameStartsUnderLock : Prop :=
  ∀ s : State, s.lock = .free →
    exec .readFrame s = .next { s with lock := .held, rbuf := [], att := 0, rphase := .reading }

/-- READ_FRAME with its frame complete: all of `RBUF` is the result, not truncated and not destuffed, and `LOCK` is
released (R113, R116, R142). That this is a step of its own is the model's choice (log entry 1). -/
def Obligations.ReadFrameHandsOverWholeBuffer : Prop :=
  ∀ s : State, s.lock = .held → s.xphase = .idle → s.rphase = .done →
    exec .readFrame s = .next { s with res := .ok (.bytes s.rbuf), lock := .free }

/-- READ_STEP whose read returns data (R114): the bytes are appended and counted; then completion is tested before the
budget. Bytes not returned stay in the inbound stream (R51). -/
def Obligations.ReadStepAppendsData : Prop :=
  ∀ (s : State) (arrived : List Byte) (upTo : Nat) (more : List RxChoice),
    s.rphase = .reading → s.tstate = .opened → s.reads = .data arrived upTo :: more →
    let n := min upTo s.params.chunk
    let rbuf' := s.rbuf ++ (s.inbound ++ arrived).take n
    let s' := { s with
      rbuf := rbuf', att := s.att + 1, inbound := (s.inbound ++ arrived).drop n, reads := more }
    (complete rbuf' = true → exec .readStep s = .next { s' with rphase := .done }) ∧
    (complete rbuf' = false → s.att + 1 < s.params.maxAttempts → exec .readStep s = .next s') ∧
    (complete rbuf' = false → s.params.maxAttempts ≤ s.att + 1 →
      exec .readStep s = .next { s' with
        rphase := .failed, res := .err (.readTimeout (s.att + 1) rbuf'.length), lock := .free, xphase := .idle })

/-- READ_STEP whose read fails (R114, R140, R143, R165): a timeout raises `ReadTimeout`, an I/O failure
`TransportError`, a close during the read `TransportError(CLOSED)`, a closed transport `TransportError(NOT_OPEN)`. No
attempt is counted and `RBUF` stays. That a close discards unread bytes is the model's choice (log entry 9). -/
def Obligations.ReadStepRaisesOnFailure : Prop :=
  ∀ (s : State) (more : List RxChoice), s.rphase = .reading →
    let ended := fun (t : State) (e : Error) =>
      { t with rphase := .failed, res := .err e, lock := .free, xphase := .idle }
    (s.tstate = .opened → s.reads = .timeout :: more →
      exec .readStep s = .next (ended { s with reads := more } (.readTimeout s.att s.rbuf.length))) ∧
    (∀ reason, s.tstate = .opened → s.reads = .fail reason :: more →
      exec .readStep s = .next (ended { s with reads := more } (.transportError reason))) ∧
    (∀ lost, s.tstate = .opened → s.reads = .closes lost :: more →
      exec .readStep s =
        .next (ended { s with reads := more, tstate := .closed, inbound := s.inbound.drop lost }
          (.transportError .closed))) ∧
    (s.tstate = .closed → exec .readStep s = .next (ended s (.transportError .notOpen)))

/-- Where no choice is listed, a read does what the free value says: the step is that of the state in which that choice
is listed, but for the draw that is counted. That draws are counted is the model's choice (log entry 3). -/
def Obligations.UnlistedReadTakesFreeChoice : Prop :=
  ∀ s : State, s.rphase = .reading → s.reads = [] → s.tstate = .opened →
    exec .readStep s =
      exec .readStep { s with reads := [Config.freeRead s.draws], draws := s.draws + 1 }

/-- READ_STEP issued on the port selects no operation (R81). That the port's READ_STEP is told from the reader's own by
`RPHASE` is the model's choice (log entry 14). -/
def Obligations.ReadStepOnPortIsIllegal : Prop :=
  ∀ s : State, s.rphase ≠ .reading →
    exec .readStep s = .next { s with res := .err (.illegalOperation 0b0100#4) }

/-- Bytes are neither lost, duplicated nor reordered by a read that returns data, and it takes at most `CHUNK` of them
(R49, R51, R55). -/
def Obligations.DataReadConservesBytes : Prop :=
  ∀ (s t : State) (arrived : List Byte) (upTo : Nat) (more : List RxChoice),
    s.rphase = .reading → s.tstate = .opened → s.reads = .data arrived upTo :: more →
    exec .readStep s = .next t →
    t.rbuf ++ t.inbound = s.rbuf ++ s.inbound ++ arrived ∧ t.rbuf.length ≤ s.rbuf.length + s.params.chunk

/-- Chunk independence (R117), with unread bytes waiting or not (R51, R197). With every read returning data, let the
stream be the bytes that wait and then those that arrive. READ_FRAME returns the stream up to the end of the first chunk
that reaches the least complete prefix, if that chunk is at most the `MAX_ATTEMPTS`-th; otherwise it raises
`ReadTimeout`. What it did not read stays in the inbound stream. How many steps a read takes and the list of choices are
the model's (log entries 1 and 2). -/
def Obligations.ReadFrameJoinsChunks : Prop :=
  ∀ (s : State) (r : Request) (rest : List Request), Accepts s r rest → decodeRequest r = .readFrame →
    s.tstate = .opened →
    (∀ (before : List DataRead) (last : DataRead) (more : List RxChoice) (k : Nat),
      let stream := s.inbound ++ arrivals (before ++ [last])
      let i := bytesTaken s.params.chunk s.inbound.length before
      let j := bytesTaken s.params.chunk s.inbound.length (before ++ [last])
      s.reads = dataReads (before ++ [last]) ++ more →
      complete (stream.take k) = true → (∀ m, m < k → complete (stream.take m) = false) → i < k → k ≤ j →
      before.length + 1 ≤ s.params.maxAttempts →
      runSteps (before.length + 3) s = .next { s with
        res := .ok (.bytes (stream.take j)), rphase := .done, rbuf := stream.take j, att := before.length + 1,
        inbound := stream.drop j, port := rest, reads := more }) ∧
    (∀ (ds : List DataRead) (more : List RxChoice),
      let stream := s.inbound ++ arrivals ds
      let j := bytesTaken s.params.chunk s.inbound.length ds
      s.reads = dataReads ds ++ more → ds.length = s.params.maxAttempts → complete (stream.take j) = false →
      runSteps (s.params.maxAttempts + 1) s = .next { s with
        res := .err (.readTimeout s.params.maxAttempts (stream.take j).length), rphase := .failed,
        rbuf := stream.take j, att := s.params.maxAttempts, inbound := stream.drop j, port := rest, reads := more })

/-- While only the block moves, READ_FRAME ends after at least one and at most `MAX_ATTEMPTS` reads, whatever the
transport answers, free choices included (R113, R115): the run is one step to start, the reads, and one step to return where the frame is complete; the
count of steps is the model's (log entry 1). -/
def Obligations.ReadFrameEndsWithinBudget : Prop :=
  ∀ (s : State) (r : Request) (rest : List Request), Accepts s r rest → decodeRequest r = .readFrame →
    ∃ (n : Nat) (t : State), 1 ≤ n ∧ n ≤ s.params.maxAttempts ∧
      ((runSteps (n + 2) s = .next t ∧ t.rphase = .done ∧ t.res = .ok (.bytes t.rbuf) ∧ complete t.rbuf = true) ∨
        (runSteps (n + 1) s = .next t ∧ t.rphase = .failed ∧ ∃ e, t.res = .err e)) ∧
      t.isIdle = true ∧ t.port = rest

/-- The timeout law (R121): while no read fails with an I/O error, READ_FRAME ends complete or with `ReadTimeout` of
`ATT` and the length of `RBUF`. The count of steps and the list of choices are the model's (log entries 1 and 2). -/
def Obligations.ReadFrameTimesOutWithoutIoFailure : Prop :=
  ∀ (s : State) (r : Request) (rest : List Request), Accepts s r rest → decodeRequest r = .readFrame →
    s.tstate = .opened → s.params.maxAttempts ≤ s.reads.length →
    (∀ c ∈ s.reads, RxChoice.noIoFailure c = true) →
    ∃ (n : Nat) (t : State), n ≤ s.params.maxAttempts + 2 ∧ runSteps n s = .next t ∧ t.isIdle = true ∧
      t.port = rest ∧
      ((complete t.rbuf = true ∧ t.res = .ok (.bytes t.rbuf)) ∨
        (complete t.rbuf = false ∧ t.att ≤ s.params.maxAttempts ∧
          t.res = .err (.readTimeout t.att t.rbuf.length)))

/-! ## EXCHANGE -/

/-- The moves of an EXCHANGE that call no transport (R141): it is accepted, the frame is built and `LOCK` taken (or
`FrameTooLarge` raised without `LOCK`), and the complete read gives `LOCK` back before the decode. That each is one step
is the model's choice (log entry 1). -/
def Obligations.ExchangePhasesAdvance : Prop :=
  ∀ (cmd : Half) (segs : List (List Byte)) (s : State),
    (s.xphase = .idle → exec (.exchange cmd segs) s = .next { s with xphase := .encode }) ∧
    (∀ f, s.xphase = .encode → encodeFrame cmd segs = .ok f →
      exec (.exchange cmd segs) s = .next { s with txf := f, lock := .held, xphase := .write }) ∧
    (s.xphase = .encode → 250 < segs.flatten.length →
      exec (.exchange cmd segs) s = .next { s with
        res := .err (.frameTooLarge (5 + segs.flatten.length)), lock := .free, xphase := .idle }) ∧
    (s.xphase = .read → s.rphase = .done →
      exec (.exchange cmd segs) s = .next { s with lock := .free, xphase := .decode })

/-- The write of an EXCHANGE (R140, R141, R50): all of `TXF` reaches the line and the read starts; or it fails, a
prefix of `TXF` has reached the line and no read starts. While the transport is closed nothing reaches the line. That a
write can meet a close, and what the close discards, are the model's choices (log entry 9). Where no choice is listed the
write does what the free value of its draw says (log entry 3). -/
def Obligations.ExchangeWritesFrameOnce : Prop :=
  ∀ (cmd : Half) (segs : List (List Byte)) (s : State) (more : List TxChoice), s.xphase = .write →
    (s.tstate = .opened → s.writes = .ok :: more →
      exec (.exchange cmd segs) s = .next { s with
        writes := more, outbound := s.outbound ++ s.txf, xphase := .read, rbuf := [], att := 0, rphase := .reading }) ∧
    (∀ reason sent, s.tstate = .opened → s.writes = .fail reason sent :: more →
      exec (.exchange cmd segs) s = .next { s with
        writes := more, outbound := s.outbound ++ s.txf.take sent,
        res := .err (.transportError reason), lock := .free, xphase := .idle }) ∧
    (∀ lost sent, s.tstate = .opened → s.writes = .closes lost sent :: more →
      exec (.exchange cmd segs) s = .next { s with
        writes := more, outbound := s.outbound ++ s.txf.take sent, tstate := .closed, inbound := s.inbound.drop lost,
        res := .err (.transportError .closed), lock := .free, xphase := .idle }) ∧
    (s.tstate = .opened → s.writes = [] →
      exec (.exchange cmd segs) s =
        exec (.exchange cmd segs) { s with writes := [Config.freeWrite s.draws], draws := s.draws + 1 }) ∧
    (s.tstate = .closed →
      exec (.exchange cmd segs) s = .next { s with
        res := .err (.transportError .notOpen), lock := .free, xphase := .idle })

/-- The decode of an EXCHANGE gives `RES` what DECODE of all of `RBUF` gives it, and ends the exchange (R116, R141). -/
def Obligations.ExchangeDecodesBuffer : Prop :=
  ∀ (cmd : Half) (segs : List (List Byte)) (s t : State), s.xphase = .decode → s.lock = .free →
    exec (.decode s.rbuf) s = .next t →
    exec (.exchange cmd segs) s = .next { s with res := t.res, xphase := .idle }

/-- An EXCHANGE end to end (R141, R117), with unread bytes waiting or not (R51, R197): with the write accepted and every
read returning data, it writes the frame of ENCODE and ends with what DECODE makes of the stream up to the end of the
first chunk that completes it. The state it leaves is given whole. The count of steps and the lists of choices are the
model's (log entries 1 and 2). -/
def Obligations.ExchangeReturnsDecodedResponse : Prop :=
  ∀ (s : State) (r : Request) (rest : List Request) (cmd : Half) (segs : List (List Byte)) (f : List Byte)
    (before : List DataRead) (last : DataRead) (writes : List TxChoice) (reads : List RxChoice),
    let stream := s.inbound ++ arrivals (before ++ [last])
    let i := bytesTaken s.params.chunk s.inbound.length before
    let j := bytesTaken s.params.chunk s.inbound.length (before ++ [last])
    Accepts s r rest → decodeRequest r = .exchange cmd segs → encodeFrame cmd segs = .ok f →
    s.tstate = .opened → s.writes = .ok :: writes → s.reads = dataReads (before ++ [last]) ++ reads →
    complete (stream.take i) = false → complete (stream.take j) = true →
    before.length + 1 ≤ s.params.maxAttempts →
    runSteps (before.length + 6) s = .next { s with
      res := Res.ofExcept .bytes (decodeFrame (stream.take j)), txf := f, outbound := s.outbound ++ f,
      rphase := .done, rbuf := stream.take j, att := before.length + 1, inbound := stream.drop j, port := rest,
      writes := writes, reads := reads }

/-- While only the block moves, every EXCHANGE ends, whatever the transport answers, free choices included (R115, R142): within `MAX_ATTEMPTS + 5`
steps the block is idle, the request answered, `LOCK` free, and `RES` a result or an error. The count of steps is the
model's (log entry 1). -/
def Obligations.ExchangeEndsWithinBudget : Prop :=
  ∀ (s : State) (r : Request) (rest : List Request) (cmd : Half) (segs : List (List Byte)),
    Accepts s r rest → decodeRequest r = .exchange cmd segs →
    ∃ (n : Nat) (t : State), n ≤ s.params.maxAttempts + 5 ∧ runSteps n s = .next t ∧
      t.isIdle = true ∧ t.lock = .free ∧ t.port = rest ∧ t.res ≠ .none

/-- An EXCHANGE whose request is too long ends with `FrameTooLarge` and leaves everything else as it was: no transport
call, `TXF` unchanged (R141, R147). The count of steps is the model's (log entry 1). -/
def Obligations.OverlongExchangeTouchesNothing : Prop :=
  ∀ (s : State) (r : Request) (rest : List Request) (cmd : Half) (segs : List (List Byte)),
    Accepts s r rest → decodeRequest r = .exchange cmd segs → 250 < segs.flatten.length →
    runSteps 2 s = .next { s with res := .err (.frameTooLarge (5 + segs.flatten.length)), port := rest }

/-- While the transport is closed, the operations that use it end with `TransportError(NOT_OPEN)` (R170, R192): an
EXCHANGE at its write, with no read issued and `RPHASE`, `RBUF` and `ATT` unchanged; a READ_FRAME at its first read. The
count of steps is the model's (log entry 1). -/
def Obligations.ClosedTransportEndsOperations : Prop :=
  ∀ (s : State) (r : Request) (rest : List Request), Accepts s r rest → s.tstate = .closed →
    (∀ cmd segs f, decodeRequest r = .exchange cmd segs → encodeFrame cmd segs = .ok f →
      runSteps 3 s = .next { s with res := .err (.transportError .notOpen), txf := f, port := rest }) ∧
    (decodeRequest r = .readFrame →
      runSteps 2 s = .next { s with
        res := .err (.transportError .notOpen), rphase := .failed, rbuf := [], att := 0, port := rest })

/-! ## The wire patterns -/

/-- A recognised pattern that raises nothing changes nothing (R82). That a recognition by itself writes no state is the
model's reading (log entry 10). -/
def Obligations.RecognisedPatternsChangeNothing : Prop :=
  ∀ (len : Byte) (cmd : Half) (s : State),
    exec (.wPreamble 0xAA#8 0xBB#8) s = .next s ∧ exec (.wReqHeader len cmd) s = .next s ∧
    exec .wEscByte s = .next s ∧ exec .wEscPair s = .next s ∧ exec .wStatusOk s = .next s

/-- A nonzero status byte behind the preamble, and a wrong preamble, raise their errors where the raw buffer before the
decoder shows them: `RBUF` in `X_DECODE`, the argument of the DECODE at the head of the port in an idle block (R82,
R126, R165). Where the buffer does not show them, or there is none, they change nothing. That the patterns raise in turns
of their own, in either place, is the model's choice (log entry 10). -/
def Obligations.FailingPatternsRaise : Prop :=
  ∀ (status b0 b1 : Byte) (s : State), status ≠ 0x00#8 → [b0, b1] ≠ [0xAA#8, 0xBB#8] →
    (∀ raw,
      (s.xphase = .decode ∧ raw = s.rbuf) ∨
        (s.isIdle = true ∧ ∃ r rest, s.port = r :: rest ∧ decodeRequest r = .decode raw) →
      exec (.wStatusErr status) s = .next
        (if raw.take 2 = [0xAA#8, 0xBB#8] ∧ raw[8]? = some status then
          { s with res := .err (.deviceStatusError status), lock := .free, xphase := .idle } else s) ∧
      exec (.wPreamble b0 b1) s = .next
        (if raw.take 2 = [b0, b1] then
          { s with res := .err (.invalidPreamble [b0, b1]), lock := .free, xphase := .idle } else s)) ∧
    (s.xphase ≠ .decode →
      (∀ r rest raw, s.port = r :: rest → s.isIdle = true → decodeRequest r ≠ .decode raw) →
      exec (.wStatusErr status) s = .next s ∧ exec (.wPreamble b0 b1) s = .next s)

/-- What a status or preamble window raises in `X_DECODE` is what the exchange's own decode raises for a buffer that
shows that window (R126, R127). That a window ends the exchange in a turn of its own is the model's choice (log entry
10). -/
def Obligations.PatternErrorsAreTheDecoders : Prop :=
  ∀ (cmd : Half) (segs : List (List Byte)) (status b0 b1 : Byte) (tail : List Byte) (s : State), s.xphase = .decode →
    (s.rbuf.take 2 = [0xAA#8, 0xBB#8] → s.rbuf[8]? = some status → status ≠ 0x00#8 →
      exec (.exchange cmd segs) s = exec (.wStatusErr status) s) ∧
    (s.rbuf = b0 :: b1 :: tail → [b0, b1] ≠ [0xAA#8, 0xBB#8] →
      exec (.exchange cmd segs) s = exec (.wPreamble b0 b1) s)

/-- A turn in which a window is looked at does nothing, or exactly what the block's own move does: no window ends an
operation otherwise than R126 and R141 end it (R24, R54, R164). That windows have turns is the model's choice (log
entry 10). -/
def Obligations.WindowTurnActsAsBlock : Prop :=
  ∀ (s : State) (w : WireWindow) (ts : List Turn), Inv s → s.turns = .window w :: ts →
    step s = .next { s with turns := ts } ∨ step s = step { s with turns := .block :: ts }

/-! ## The whole machine -/

/-- Every step keeps the invariant. -/
def Obligations.EveryStepKeepsInvariant : Prop :=
  ∀ s t : State, Inv s → step s = .next t → Inv t

/-- When a request leaves the port, its operation has ended: `LOCK` is free, `XPHASE` is `X_IDLE` and `RES` is a result
or an error (R142, R165). -/
def Obligations.AnsweredRequestReleasesLock : Prop :=
  ∀ s t : State, Inv s → step s = .next t → t.port.length < s.port.length →
    t.lock = .free ∧ t.xphase = .idle ∧ t.res ≠ .none

/-- No operation and no move of the environment changes a parameter (R28). -/
def Obligations.ParametersNeverChange : Prop :=
  ∀ s t : State, step s = .next t → t.params = s.params

/-- The block never opens the transport (R193), and only EXCHANGE in `X_WRITE` puts bytes on the line, behind those
that are there (R55, R147). -/
def Obligations.OnlyExchangeReachesTheLine : Prop :=
  ∀ (i : Instr) (s t : State), exec i s = .next t →
    (t.tstate = .opened → s.tstate = .opened) ∧
    (t.outbound = s.outbound ∨
      (s.xphase = .write ∧ (∃ cmd segs, i = .exchange cmd segs) ∧
        ∃ sent, t.outbound = s.outbound ++ s.txf.take sent))

/-- The operations that are pure, and ENCODE, DECODE and ILLEGAL, write only `RES`, and what they write there does not
depend on the state (R80, R81, R105, R134). -/
def Obligations.PureOperationsReadNoState : Prop :=
  ∀ (i : Instr), (∃ r, encode i = .request r) → i ≠ .readFrame → i ≠ .readStep →
    (∀ cmd segs, i ≠ .exchange cmd segs) →
    ∃ v : Res, v ≠ .none ∧ ∀ s : State, exec i s = .next { s with res := v }

/-- Reading a payload from `RES = NONE` is a fault (R35). Reading any other `RES` changes nothing; that an error is read so
is the model's reading (log entry 16). -/
def Obligations.PayloadOfNoResultFaults : Prop :=
  ∀ (s : State) (ts : List Turn), s.params.valid = true → s.turns = .takesPayload :: ts →
    (s.res = .none → step s = .fault .payloadOfNone) ∧ (s.res ≠ .none → step s = .next { s with turns := ts })

/-- A request issued while an operation runs is held at the port: no other state changes and the request that runs
stays at the head (R57). One that arrives at an idle block joins those that wait there, and nothing else changes (R30).
Where in the line it waits is the environment's choice (log entry 13). -/
def Obligations.HeldRequestHasNoEffect : Prop :=
  ∀ (s : State) (r : Request) (ahead : Nat) (ts : List Turn), s.params.valid = true → s.turns = .issues r ahead :: ts →
    (∀ running waiting, s.isIdle = false → s.port = running :: waiting →
      step s = .next { s with turns := ts, port := running :: (waiting.take ahead ++ r :: waiting.drop ahead) }) ∧
    (s.isIdle = true →
      step s = .next { s with turns := ts, port := s.port.take ahead ++ r :: s.port.drop ahead })

/-- The environment's moves on the transport change the transport only (R32, R140, R143). What a close discards is the
model's choice (log entry 9), and so is that an open keeps the inbound stream and a closed transport what the device
sends (log entry 21). -/
def Obligations.EnvironmentMovesOnlyTransport : Prop :=
  ∀ (s : State) (ts : List Turn) (lost : Nat) (bs : List Byte), s.params.valid = true →
    (s.turns = .opens :: ts → step s = .next { s with turns := ts, tstate := .opened }) ∧
    (s.turns = .closes lost :: ts →
      step s = .next { s with turns := ts, tstate := .closed, inbound := s.inbound.drop lost }) ∧
    (s.turns = .sends bs :: ts → step s = .next { s with turns := ts, inbound := s.inbound ++ bs })

/-- An instance with `MAX_ATTEMPTS = 0` is refused (R115). That one with `CHUNK = 0` is refused as well is the model's
reading of its constraint (log entry 6). -/
def Obligations.InvalidInstanceIsRefused : Prop :=
  ∀ s : State, s.params.maxAttempts = 0 ∨ s.params.chunk = 0 → step s = .refused .invalidInstance

/-- The codes of `RES` (R160). -/
def Obligations.ResultCodesFollowTable : Prop :=
  (∀ v, (Res.ok v).code = some 0) ∧
  (∀ reason, (Res.err (.transportError reason)).code = some 1) ∧
  (∀ a n, (Res.err (.readTimeout a n)).code = some 2) ∧
  (∀ bs, (Res.err (.invalidPreamble bs)).code = some 3) ∧
  (∀ c r, (Res.err (.invalidChecksum c r)).code = some 4) ∧
  (∀ b, (Res.err (.deviceStatusError b)).code = some 5) ∧
  (∀ n, (Res.err (.frameTooLarge n)).code = some 6) ∧
  (∀ n, (Res.err (.frameTooShort n)).code = some 7) ∧
  (∀ op, (Res.err (.illegalOperation op)).code = some 8)
end

