-- ==== Sys2Proof/Laws/Operands.lean ====
section
/-! SUPPORT. The small lemmas of the byte-sequence functions. -/

namespace Sys2Proof.Machine

/-! ## Constants of the format (R29) -/

@[simp] theorem pre1_eq : Config.pre1 = 0xAA#8 := rfl
@[simp] theorem pre2_eq : Config.pre2 = 0xBB#8 := rfl
@[simp] theorem rsv_eq : Config.rsv = 0x00#8 := rfl
@[simp] theorem esc_eq : Config.esc = 0xAA#8 := rfl
@[simp] theorem stuffByte_eq : Config.stuffByte = 0x00#8 := rfl
@[simp] theorem statusOk_eq : Config.statusOk = 0x00#8 := rfl
@[simp] theorem deviceId_eq : Config.deviceId = 0x0000#16 := rfl

/-! ## Segments -/

theorem payload_eq_flatten (segs : List (List Byte)) : payload segs = segs.flatten := by
  induction segs with
  | nil => rfl
  | cons s segs ih => simp [payload, ih]

theorem payloadLength_eq (segs : List (List Byte)) : payloadLength segs = segs.flatten.length := by
  induction segs with
  | nil => rfl
  | cons s segs ih => simp [payloadLength, ih]

/-- FRAME_LENGTH answers a length exactly when it fits (R102). -/
theorem frameLength_ok (segs : List (List Byte)) (h : payloadLength segs ≤ 250) :
    frameLength segs = .ok (5 + payloadLength segs) := by
  have : ¬ (255 < 5 + payloadLength segs) := by omega
  simp [frameLength, Config.maxLength, Config.hdrLen, this]

theorem frameLength_error (segs : List (List Byte)) (h : 250 < payloadLength segs) :
    frameLength segs = .error (.frameTooLarge (5 + payloadLength segs)) := by
  have : 255 < 5 + payloadLength segs := by omega
  simp [frameLength, Config.maxLength, Config.hdrLen, this]

/-- ENCODE answers a frame exactly when its length fits (R103). -/
theorem encodeFrame_ok (cmd : Half) (segs : List (List Byte)) (h : payloadLength segs ≤ 250) :
    encodeFrame cmd segs = .ok (frameAround (5 + payloadLength segs) (requestBody cmd segs)) := by
  simp [encodeFrame, frameLength_ok segs h]

theorem encodeFrame_error (cmd : Half) (segs : List (List Byte)) (h : 250 < payloadLength segs) :
    encodeFrame cmd segs = .error (.frameTooLarge (5 + payloadLength segs)) := by
  simp [encodeFrame, frameLength_error segs h]

@[simp] theorem requestBody_length (cmd : Half) (segs : List (List Byte)) :
    (requestBody cmd segs).length = 5 + payloadLength segs := by
  simp [requestBody, be16, payload_eq_flatten, payloadLength_eq]
  omega

@[simp] theorem frameAround_length (l : Nat) (body : List Byte) :
    (frameAround l body).length = body.length + 4 := by
  simp [frameAround]

/-- What ENCODE answers is 9 to 259 bytes long (R103). -/
theorem encodeFrame_length {cmd : Half} {segs : List (List Byte)} {f : List Byte}
    (h : encodeFrame cmd segs = .ok f) : 9 ≤ f.length ∧ f.length ≤ 259 := by
  rcases Nat.lt_or_ge 250 (payloadLength segs) with hp | hp
  · simp [encodeFrame_error cmd segs hp] at h
  · rw [encodeFrame_ok cmd segs hp] at h
    cases h
    simp
    omega

/-! ## XORFOLD -/

@[simp] theorem xorfold_nil : xorfold [] = 0x00#8 := rfl

@[simp] theorem xorfold_cons (b : Byte) (bs : List Byte) : xorfold (b :: bs) = b ^^^ xorfold bs := rfl

@[simp] theorem xorfold_append (bs cs : List Byte) : xorfold (bs ++ cs) = xorfold bs ^^^ xorfold cs := by
  induction bs with
  | nil => simp
  | cons b bs ih => simp [ih, BitVec.xor_assoc]

/-! ## The length rule -/

@[simp] theorem complete_nil : complete [] = false := rfl

theorem stuffCount_cons3 (a b l : Byte) (bs : List Byte) :
    stuffCount (a :: b :: l :: bs) = (l :: bs).count 0xAA#8 := rfl

theorem expectedTotal_cons3 (a b l : Byte) (bs : List Byte) :
    expectedTotal (a :: b :: l :: bs) = some (l.toNat + 4 + (l :: bs).count 0xAA#8) := rfl

theorem complete_cons3 (a b l : Byte) (bs : List Byte) :
    complete (a :: b :: l :: bs) = decide (l.toNat + 4 + (l :: bs).count 0xAA#8 ≤ bs.length + 3) := rfl

/-- Below three bytes the length rule computes nothing (R111, R112). -/
theorem expectedTotal_short {bs : List Byte} (h : bs.length < 3) : expectedTotal bs = none := by
  have : bs[2]? = none := by simp; omega
  simp [expectedTotal, this]

theorem complete_short {bs : List Byte} (h : bs.length < 3) : complete bs = false := by
  simp [complete, expectedTotal_short h]

/-! ## Stuffing -/

@[simp] theorem stuff_nil : stuff [] = [] := rfl

theorem stuff_esc (bs : List Byte) : stuff (0xAA#8 :: bs) = 0xAA#8 :: 0x00#8 :: stuff bs := rfl

theorem stuff_plain {b : Byte} (h : b ≠ 0xAA#8) (bs : List Byte) : stuff (b :: bs) = b :: stuff bs := by
  simp [stuff, h]

theorem destuffAfter_stuffed (bs : List Byte) : destuffAfter 0xAA#8 (0x00#8 :: bs) = destuffAfter 0x00#8 bs := rfl

theorem destuffAfter_plain {prev b : Byte} (h : ¬ (b = 0x00#8 ∧ prev = 0xAA#8)) (bs : List Byte) :
    destuffAfter prev (b :: bs) = b :: destuffAfter b bs := by
  have : ¬ (b = Config.stuffByte ∧ prev = Config.esc) := h
  simp only [destuffAfter, if_neg this]

end Sys2Proof.Machine
end

