-- ==== Sys2Proof/Laws/State.lean ====
section
/-! SUPPORT. What each update of the state does to each field: one lemma per field per update. -/

namespace Sys2Proof.Machine

variable (s : State)

@[simp] theorem answer_lock (r : Res) : (answer r s).lock = s.lock := rfl
@[simp] theorem answer_xphase (r : Res) : (answer r s).xphase = s.xphase := rfl
@[simp] theorem answer_txf (r : Res) : (answer r s).txf = s.txf := rfl
@[simp] theorem answer_rphase (r : Res) : (answer r s).rphase = s.rphase := rfl
@[simp] theorem answer_rbuf (r : Res) : (answer r s).rbuf = s.rbuf := rfl
@[simp] theorem answer_att (r : Res) : (answer r s).att = s.att := rfl
@[simp] theorem answer_res (r : Res) : (answer r s).res = r := rfl
@[simp] theorem answer_tstate (r : Res) : (answer r s).tstate = s.tstate := rfl
@[simp] theorem answer_inbound (r : Res) : (answer r s).inbound = s.inbound := rfl
@[simp] theorem answer_outbound (r : Res) : (answer r s).outbound = s.outbound := rfl
@[simp] theorem answer_port (r : Res) : (answer r s).port = s.port := rfl
@[simp] theorem answer_params (r : Res) : (answer r s).params = s.params := rfl
@[simp] theorem answer_turns (r : Res) : (answer r s).turns = s.turns := rfl
@[simp] theorem answer_writes (r : Res) : (answer r s).writes = s.writes := rfl
@[simp] theorem answer_reads (r : Res) : (answer r s).reads = s.reads := rfl
@[simp] theorem answer_draws (r : Res) : (answer r s).draws = s.draws := rfl

@[simp] theorem endOperation_lock (r : Res) : (endOperation r s).lock = .free := rfl
@[simp] theorem endOperation_xphase (r : Res) : (endOperation r s).xphase = .idle := rfl
@[simp] theorem endOperation_txf (r : Res) : (endOperation r s).txf = s.txf := rfl
@[simp] theorem endOperation_rphase (r : Res) : (endOperation r s).rphase = s.rphase := rfl
@[simp] theorem endOperation_rbuf (r : Res) : (endOperation r s).rbuf = s.rbuf := rfl
@[simp] theorem endOperation_att (r : Res) : (endOperation r s).att = s.att := rfl
@[simp] theorem endOperation_res (r : Res) : (endOperation r s).res = r := rfl
@[simp] theorem endOperation_tstate (r : Res) : (endOperation r s).tstate = s.tstate := rfl
@[simp] theorem endOperation_inbound (r : Res) : (endOperation r s).inbound = s.inbound := rfl
@[simp] theorem endOperation_outbound (r : Res) : (endOperation r s).outbound = s.outbound := rfl
@[simp] theorem endOperation_port (r : Res) : (endOperation r s).port = s.port := rfl
@[simp] theorem endOperation_params (r : Res) : (endOperation r s).params = s.params := rfl
@[simp] theorem endOperation_turns (r : Res) : (endOperation r s).turns = s.turns := rfl
@[simp] theorem endOperation_writes (r : Res) : (endOperation r s).writes = s.writes := rfl
@[simp] theorem endOperation_reads (r : Res) : (endOperation r s).reads = s.reads := rfl
@[simp] theorem endOperation_draws (r : Res) : (endOperation r s).draws = s.draws := rfl

@[simp] theorem raise_lock (e : Error) : (raise e s).lock = .free := rfl
@[simp] theorem raise_xphase (e : Error) : (raise e s).xphase = .idle := rfl
@[simp] theorem raise_txf (e : Error) : (raise e s).txf = s.txf := rfl
@[simp] theorem raise_rphase (e : Error) : (raise e s).rphase = s.rphase := rfl
@[simp] theorem raise_rbuf (e : Error) : (raise e s).rbuf = s.rbuf := rfl
@[simp] theorem raise_att (e : Error) : (raise e s).att = s.att := rfl
@[simp] theorem raise_res (e : Error) : (raise e s).res = .err e := rfl
@[simp] theorem raise_tstate (e : Error) : (raise e s).tstate = s.tstate := rfl
@[simp] theorem raise_inbound (e : Error) : (raise e s).inbound = s.inbound := rfl
@[simp] theorem raise_outbound (e : Error) : (raise e s).outbound = s.outbound := rfl
@[simp] theorem raise_port (e : Error) : (raise e s).port = s.port := rfl
@[simp] theorem raise_params (e : Error) : (raise e s).params = s.params := rfl
@[simp] theorem raise_turns (e : Error) : (raise e s).turns = s.turns := rfl
@[simp] theorem raise_writes (e : Error) : (raise e s).writes = s.writes := rfl
@[simp] theorem raise_reads (e : Error) : (raise e s).reads = s.reads := rfl
@[simp] theorem raise_draws (e : Error) : (raise e s).draws = s.draws := rfl

@[simp] theorem raiseReader_lock (e : Error) : (raiseReader e s).lock = .free := rfl
@[simp] theorem raiseReader_xphase (e : Error) : (raiseReader e s).xphase = .idle := rfl
@[simp] theorem raiseReader_txf (e : Error) : (raiseReader e s).txf = s.txf := rfl
@[simp] theorem raiseReader_rphase (e : Error) : (raiseReader e s).rphase = .failed := rfl
@[simp] theorem raiseReader_rbuf (e : Error) : (raiseReader e s).rbuf = s.rbuf := rfl
@[simp] theorem raiseReader_att (e : Error) : (raiseReader e s).att = s.att := rfl
@[simp] theorem raiseReader_res (e : Error) : (raiseReader e s).res = .err e := rfl
@[simp] theorem raiseReader_tstate (e : Error) : (raiseReader e s).tstate = s.tstate := rfl
@[simp] theorem raiseReader_inbound (e : Error) : (raiseReader e s).inbound = s.inbound := rfl
@[simp] theorem raiseReader_outbound (e : Error) : (raiseReader e s).outbound = s.outbound := rfl
@[simp] theorem raiseReader_port (e : Error) : (raiseReader e s).port = s.port := rfl
@[simp] theorem raiseReader_params (e : Error) : (raiseReader e s).params = s.params := rfl
@[simp] theorem raiseReader_turns (e : Error) : (raiseReader e s).turns = s.turns := rfl
@[simp] theorem raiseReader_writes (e : Error) : (raiseReader e s).writes = s.writes := rfl
@[simp] theorem raiseReader_reads (e : Error) : (raiseReader e s).reads = s.reads := rfl
@[simp] theorem raiseReader_draws (e : Error) : (raiseReader e s).draws = s.draws := rfl

@[simp] theorem returnOk_lock (v : Value) : (returnOk v s).lock = .free := rfl
@[simp] theorem returnOk_xphase (v : Value) : (returnOk v s).xphase = .idle := rfl
@[simp] theorem returnOk_txf (v : Value) : (returnOk v s).txf = s.txf := rfl
@[simp] theorem returnOk_rphase (v : Value) : (returnOk v s).rphase = s.rphase := rfl
@[simp] theorem returnOk_rbuf (v : Value) : (returnOk v s).rbuf = s.rbuf := rfl
@[simp] theorem returnOk_att (v : Value) : (returnOk v s).att = s.att := rfl
@[simp] theorem returnOk_res (v : Value) : (returnOk v s).res = .ok v := rfl
@[simp] theorem returnOk_tstate (v : Value) : (returnOk v s).tstate = s.tstate := rfl
@[simp] theorem returnOk_inbound (v : Value) : (returnOk v s).inbound = s.inbound := rfl
@[simp] theorem returnOk_outbound (v : Value) : (returnOk v s).outbound = s.outbound := rfl
@[simp] theorem returnOk_port (v : Value) : (returnOk v s).port = s.port := rfl
@[simp] theorem returnOk_params (v : Value) : (returnOk v s).params = s.params := rfl
@[simp] theorem returnOk_turns (v : Value) : (returnOk v s).turns = s.turns := rfl
@[simp] theorem returnOk_writes (v : Value) : (returnOk v s).writes = s.writes := rfl
@[simp] theorem returnOk_reads (v : Value) : (returnOk v s).reads = s.reads := rfl
@[simp] theorem returnOk_draws (v : Value) : (returnOk v s).draws = s.draws := rfl

@[simp] theorem closeTransport_lock (lost : Nat) : (closeTransport lost s).lock = s.lock := rfl
@[simp] theorem closeTransport_xphase (lost : Nat) : (closeTransport lost s).xphase = s.xphase := rfl
@[simp] theorem closeTransport_txf (lost : Nat) : (closeTransport lost s).txf = s.txf := rfl
@[simp] theorem closeTransport_rphase (lost : Nat) : (closeTransport lost s).rphase = s.rphase := rfl
@[simp] theorem closeTransport_rbuf (lost : Nat) : (closeTransport lost s).rbuf = s.rbuf := rfl
@[simp] theorem closeTransport_att (lost : Nat) : (closeTransport lost s).att = s.att := rfl
@[simp] theorem closeTransport_res (lost : Nat) : (closeTransport lost s).res = s.res := rfl
@[simp] theorem closeTransport_tstate (lost : Nat) : (closeTransport lost s).tstate = .closed := rfl
@[simp] theorem closeTransport_inbound (lost : Nat) : (closeTransport lost s).inbound = s.inbound.drop lost := rfl
@[simp] theorem closeTransport_outbound (lost : Nat) : (closeTransport lost s).outbound = s.outbound := rfl
@[simp] theorem closeTransport_port (lost : Nat) : (closeTransport lost s).port = s.port := rfl
@[simp] theorem closeTransport_params (lost : Nat) : (closeTransport lost s).params = s.params := rfl
@[simp] theorem closeTransport_turns (lost : Nat) : (closeTransport lost s).turns = s.turns := rfl
@[simp] theorem closeTransport_writes (lost : Nat) : (closeTransport lost s).writes = s.writes := rfl
@[simp] theorem closeTransport_reads (lost : Nat) : (closeTransport lost s).reads = s.reads := rfl
@[simp] theorem closeTransport_draws (lost : Nat) : (closeTransport lost s).draws = s.draws := rfl

@[simp] theorem beginRead_lock : (beginRead s).lock = s.lock := rfl
@[simp] theorem beginRead_xphase : (beginRead s).xphase = s.xphase := rfl
@[simp] theorem beginRead_txf : (beginRead s).txf = s.txf := rfl
@[simp] theorem beginRead_rphase : (beginRead s).rphase = .reading := rfl
@[simp] theorem beginRead_rbuf : (beginRead s).rbuf = [] := rfl
@[simp] theorem beginRead_att : (beginRead s).att = 0 := rfl
@[simp] theorem beginRead_res : (beginRead s).res = s.res := rfl
@[simp] theorem beginRead_tstate : (beginRead s).tstate = s.tstate := rfl
@[simp] theorem beginRead_inbound : (beginRead s).inbound = s.inbound := rfl
@[simp] theorem beginRead_outbound : (beginRead s).outbound = s.outbound := rfl
@[simp] theorem beginRead_port : (beginRead s).port = s.port := rfl
@[simp] theorem beginRead_params : (beginRead s).params = s.params := rfl
@[simp] theorem beginRead_turns : (beginRead s).turns = s.turns := rfl
@[simp] theorem beginRead_writes : (beginRead s).writes = s.writes := rfl
@[simp] theorem beginRead_reads : (beginRead s).reads = s.reads := rfl
@[simp] theorem beginRead_draws : (beginRead s).draws = s.draws := rfl

@[simp] theorem retire_lock : (retire s).lock = s.lock := rfl
@[simp] theorem retire_xphase : (retire s).xphase = s.xphase := rfl
@[simp] theorem retire_txf : (retire s).txf = s.txf := rfl
@[simp] theorem retire_rphase : (retire s).rphase = s.rphase := rfl
@[simp] theorem retire_rbuf : (retire s).rbuf = s.rbuf := rfl
@[simp] theorem retire_att : (retire s).att = s.att := rfl
@[simp] theorem retire_res : (retire s).res = s.res := rfl
@[simp] theorem retire_tstate : (retire s).tstate = s.tstate := rfl
@[simp] theorem retire_inbound : (retire s).inbound = s.inbound := rfl
@[simp] theorem retire_outbound : (retire s).outbound = s.outbound := rfl
@[simp] theorem retire_port : (retire s).port = s.port.tail := rfl
@[simp] theorem retire_params : (retire s).params = s.params := rfl
@[simp] theorem retire_turns : (retire s).turns = s.turns := rfl
@[simp] theorem retire_writes : (retire s).writes = s.writes := rfl
@[simp] theorem retire_reads : (retire s).reads = s.reads := rfl
@[simp] theorem retire_draws : (retire s).draws = s.draws := rfl

@[simp] theorem powerOn_isIdle (p : Params) : (State.powerOn p).isIdle = true := rfl

/-- The three conditions of an idle block. -/
theorem isIdle_iff : s.isIdle = true ↔ s.xphase = .idle ∧ s.lock = .free ∧ s.rphase ≠ .reading := by
  simp [State.isIdle, and_assoc]

/-- Whether the block is idle depends on the control state alone. -/
theorem isIdle_congr {s t : State} (hl : t.lock = s.lock) (hx : t.xphase = s.xphase) (hr : t.rphase = s.rphase) :
    t.isIdle = s.isIdle := by
  simp [State.isIdle, hl, hx, hr]

@[simp] theorem answer_isIdle (r : Res) : (answer r s).isIdle = s.isIdle := rfl

@[simp] theorem retire_isIdle : (retire s).isIdle = s.isIdle := rfl

/-- An error of the reader leaves the block idle. -/
@[simp] theorem raiseReader_isIdle (e : Error) : (raiseReader e s).isIdle = true := rfl

end Sys2Proof.Machine
end

