-- ==== Sys2Proof/Laws/Ops.lean ====
section
/-! SUPPORT. For each shared operation, one lemma that says everything it can do. -/

namespace Sys2Proof.Machine

/-- Everything two states agree on when the transport alone has moved: all but `TSTATE`, the two streams, the choices
and the draws. -/
def SameBlock (s t : State) : Prop :=
  t.lock = s.lock ∧ t.xphase = s.xphase ∧ t.txf = s.txf ∧ t.rphase = s.rphase ∧ t.rbuf = s.rbuf ∧ t.att = s.att ∧
  t.res = s.res ∧ t.port = s.port ∧ t.params = s.params ∧ t.turns = s.turns

theorem SameBlock.refl (s : State) : SameBlock s s := ⟨rfl, rfl, rfl, rfl, rfl, rfl, rfl, rfl, rfl, rfl⟩

/-- A choice of a write moves the choices only. -/
theorem chooseWrite_frame (s : State) :
    SameBlock s (chooseWrite s).2 ∧ (chooseWrite s).2.tstate = s.tstate ∧ (chooseWrite s).2.inbound = s.inbound ∧
      (chooseWrite s).2.outbound = s.outbound ∧ (chooseWrite s).2.reads = s.reads := by
  unfold chooseWrite
  cases s.writes <;> exact ⟨SameBlock.refl _, rfl, rfl, rfl, rfl⟩

/-- A choice of a read moves the choices only. -/
theorem chooseRead_frame (s : State) :
    SameBlock s (chooseRead s).2 ∧ (chooseRead s).2.tstate = s.tstate ∧ (chooseRead s).2.inbound = s.inbound ∧
      (chooseRead s).2.outbound = s.outbound ∧ (chooseRead s).2.writes = s.writes := by
  unfold chooseRead
  cases s.reads <;> exact ⟨SameBlock.refl _, rfl, rfl, rfl, rfl⟩

/-- Everything a write can do (R50, R140): the block stays, a prefix of the frame reaches the line (all of it on
success), and the transport is never opened. -/
theorem txWrite_cases (bs : List Byte) (s : State) :
    SameBlock s (txWrite bs s).2 ∧ ((txWrite bs s).2.tstate = .opened → s.tstate = .opened) ∧
      (txWrite bs s).2.reads = s.reads ∧
      ∃ sent, (txWrite bs s).2.outbound = s.outbound ++ bs.take sent ∧
        ((txWrite bs s).1 = .ok → bs.take sent = bs) := by
  unfold txWrite
  cases h : s.tstate with
  | closed => exact ⟨SameBlock.refl s, by simp [h], rfl, 0, by simp, by simp⟩
  | opened =>
    obtain ⟨hb, ht, hi, ho, hr⟩ := chooseWrite_frame s
    cases hc : (chooseWrite s).1 with
    | ok => exact ⟨hb, fun _ => rfl, hr, bs.length, by simp [applyWrite, ho], by simp⟩
    | fail reason sent => exact ⟨hb, fun _ => rfl, hr, sent, by simp [applyWrite, ho], by simp [applyWrite]⟩
    | closes lost sent => exact ⟨hb, by simp [applyWrite], hr, sent, by simp [applyWrite, ho], by simp [applyWrite]⟩

/-- Everything a read can do (R51, R140): the block and the line stay, the transport is never opened, and data is at
most `n` bytes. -/
theorem rxRead_cases (n : Nat) (s : State) :
    SameBlock s (rxRead n s).2 ∧ ((rxRead n s).2.tstate = .opened → s.tstate = .opened) ∧
      (rxRead n s).2.outbound = s.outbound ∧ (rxRead n s).2.writes = s.writes ∧
      ∀ bs, (rxRead n s).1 = .data bs → bs.length ≤ n := by
  unfold rxRead
  cases h : s.tstate with
  | closed => exact ⟨SameBlock.refl s, by simp [h], rfl, rfl, by simp⟩
  | opened =>
    obtain ⟨hb, ht, hi, ho, hw⟩ := chooseRead_frame s
    cases hc : (chooseRead s).1 with
    | data arrived upTo =>
      refine ⟨hb, fun _ => rfl, ho, hw, fun bs hbs => ?_⟩
      simp only [applyRead, RxOutcome.data.injEq] at hbs
      subst hbs
      simp
    | timeout => exact ⟨hb, fun _ => rfl, ho, hw, by simp [applyRead]⟩
    | fail reason => exact ⟨hb, fun _ => rfl, ho, hw, by simp [applyRead]⟩
    | closes lost => exact ⟨hb, by simp [applyRead], ho, hw, by simp [applyRead]⟩

/-- Everything the reader does with data (R114). -/
theorem receive_cases (bs : List Byte) (s : State) :
    let s' := { s with rbuf := s.rbuf ++ bs, att := s.att + 1 }
    (complete (s.rbuf ++ bs) = true ∧ receive bs s = { s' with rphase := .done }) ∨
    (complete (s.rbuf ++ bs) = false ∧ s.params.maxAttempts ≤ s.att + 1 ∧
      receive bs s = raiseReader (.readTimeout (s.att + 1) (s.rbuf ++ bs).length) s') ∨
    (complete (s.rbuf ++ bs) = false ∧ s.att + 1 < s.params.maxAttempts ∧ receive bs s = s') := by
  intro s'
  cases hc : complete (s.rbuf ++ bs) with
  | true => exact .inl ⟨rfl, by simp [receive, hc, s']⟩
  | false =>
    rcases Nat.lt_or_ge (s.att + 1) s.params.maxAttempts with hm | hm
    · exact .inr (.inr ⟨rfl, hm, by simp [receive, hc, Nat.not_le.mpr hm, s']⟩)
    · exact .inr (.inl ⟨rfl, hm, by simp [receive, hc, hm, s']⟩)

/-- Everything one iteration of the reader can do (R114), in terms of the read it makes. -/
theorem readIteration_cases (s : State) :
    (∃ e, readIteration s = raiseReader e (rxRead s.params.chunk s).2 ∧
      ((rxRead s.params.chunk s).1 = .timeout ∨ ∃ reason, (rxRead s.params.chunk s).1 = .fail reason)) ∨
    (∃ bs, (rxRead s.params.chunk s).1 = .data bs ∧ bs.length ≤ s.params.chunk ∧
      readIteration s = receive bs (rxRead s.params.chunk s).2) := by
  unfold readIteration
  have hlen := (rxRead_cases s.params.chunk s).2.2.2.2
  cases h : (rxRead s.params.chunk s).1 with
  | data bs => exact .inr ⟨bs, rfl, hlen bs h, rfl⟩
  | timeout => exact .inl ⟨_, rfl, .inl rfl⟩
  | fail reason => exact .inl ⟨_, rfl, .inr ⟨reason, rfl⟩⟩

/-- `exec` always answers a next state: no meaning stops. -/
theorem exec_next (i : Instr) (s : State) : ∃ t, exec i s = .next t := by
  cases i
  case readFrame => simp only [exec, execReadFrame]; split <;> exact ⟨_, rfl⟩
  case readStep => simp only [exec, execReadStep]; split <;> exact ⟨_, rfl⟩
  case exchange => simp only [exec, execExchange]; split <;> exact ⟨_, rfl⟩
  case expectedTotal => simp only [exec, execExpectedTotal]; split <;> exact ⟨_, rfl⟩
  all_goals exact ⟨_, rfl⟩

/-! ## The wire patterns -/

@[simp] theorem raiseIfAny_none (s : State) : raiseIfAny none s = s := rfl
@[simp] theorem raiseIfAny_some (e : Error) (s : State) : raiseIfAny (some e) s = raise e s := rfl

/-- Only DECODE hands the decoder a buffer. -/
theorem decodeArgument_eq_some {i : Instr} {raw : List Byte} : decodeArgument i = some raw ↔ i = .decode raw := by
  cases i <;> simp [decodeArgument]

/-- Where the decoder has a raw buffer: in `X_DECODE`, or in an idle block with a DECODE at the head of the port. -/
theorem rawBuffer_eq_some {s : State} {raw : List Byte} :
    rawBuffer s = some raw ↔
      (s.xphase = .decode ∧ raw = s.rbuf) ∨
      (s.isIdle = true ∧ ∃ r rest, s.port = r :: rest ∧ decodeRequest r = .decode raw) := by
  unfold rawBuffer
  by_cases hx : s.xphase = .decode
  · have hi : s.isIdle = false := by simp [State.isIdle, hx]
    simp [hx, hi, eq_comm]
  · by_cases hi : s.isIdle = true
    · cases hp : s.port with
      | nil => simp [hx, hi]
      | cons r rest => simp [hx, hi, decodeArgument_eq_some]
    · simp [hx, hi]

/-- The preamble pattern is the two bytes `AA BB`. -/
theorem wirePreamble_fits (bs : List Byte) : wirePreamble.fits bs = decide (bs = [0xAA#8, 0xBB#8]) := by
  have hm : ∀ b : Byte, b &&& 0xFF#8 = b := fun _ => BitVec.and_allOnes
  match bs with
  | [] => rfl
  | [b] => simp [wirePreamble, WirePattern.fits]
  | [b, c] => simp [wirePreamble, WirePattern.fits, hm]
  | b :: c :: d :: bs => simp [wirePreamble, WirePattern.fits]

/-- The error of a preamble window is the one DECODE of the buffer raises. -/
theorem preambleError_decodeFrame {b0 b1 : Byte} {raw : List Byte} {e : Error} (h : preambleError b0 b1 raw = some e) :
    decodeFrame raw = .error e := by
  unfold preambleError at h
  split at h
  · rename_i hc
    obtain ⟨ht, hf⟩ := hc
    rw [wirePreamble_fits, decide_eq_false_iff_not] at hf
    rw [Option.some.injEq] at h
    rw [← h, decodeFrame, if_neg (by simpa [ht] using hf), ht]
  · simp at h

/-- The error of a status window is the one DECODE of the buffer raises. -/
theorem statusError_decodeFrame {status : Byte} {raw : List Byte} {e : Error} (h : statusError status raw = some e) :
    decodeFrame raw = .error e := by
  unfold statusError at h
  split at h
  · rename_i hc
    obtain ⟨ht, h8, hs⟩ := hc
    rw [wirePreamble_fits, decide_eq_true_eq] at ht
    rw [Option.some.injEq] at h
    rw [← h, decodeFrame, if_pos (by simpa using ht)]
    simp only [h8]
    rw [if_neg hs]
  · simp at h

/-- Everything a pattern can raise: the error that DECODE of the raw buffer raises. -/
theorem patternError_decodeFrame {i : Instr} {s : State} {e : Error} (h : patternError i s = some e) :
    ∃ raw, rawBuffer s = some raw ∧ decodeFrame raw = .error e := by
  cases i with
  | wPreamble b0 b1 =>
    obtain ⟨raw, hr, he⟩ := Option.bind_eq_some_iff.1 h
    exact ⟨raw, hr, preambleError_decodeFrame he⟩
  | wStatusErr status =>
    obtain ⟨raw, hr, he⟩ := Option.bind_eq_some_iff.1 h
    exact ⟨raw, hr, statusError_decodeFrame he⟩
  | _ => simp [patternError] at h

/-- Everything a wire pattern can do: nothing, or raise its error. -/
theorem exec_of_window {w : WireWindow} {i : Instr} (hw : decodeWindow w = some i) (s : State) :
    exec i s = .next (raiseIfAny (patternError i s) s) := by
  cases i with
  | wPreamble b0 b1 => rfl
  | wStatusErr status => rfl
  | wReqHeader l c => rfl
  | wEscByte => rfl
  | wEscPair => rfl
  | wStatusOk => rfl
  | _ =>
    exfalso
    unfold decodeWindow at hw
    repeat' split at hw
    all_goals simp at hw

/-! ## The sequencer -/

@[simp] theorem mapNext_next (f : State → State) (t : State) : mapNext f (.next t) = .next (f t) := rfl

theorem mapNext_eq_next {f : State → State} {o : Host.Outcome State Fault Refusal} {t : State}
    (h : mapNext f o = .next t) : ∃ u, o = .next u ∧ t = f u := by
  cases o with
  | next u => exact ⟨u, rfl, by simpa [mapNext] using h.symm⟩
  | fault r => simp [mapNext] at h
  | refused r => simp [mapNext] at h

/-- In a valid instance a step is the listed turn, or the block's move where none is listed. -/
theorem step_of_valid {s : State} (h : s.params.valid = true) :
    step s = match s.turns with
      | [] => blockMove exec s
      | t :: ts => takeTurn exec t { s with turns := ts } :=
  if_pos h

/-- A next state comes from a valid instance only. -/
theorem step_next_valid {s t : State} (h : step s = .next t) : s.params.valid = true := by
  by_contra hv
  simp [step, move, hv] at h

end Sys2Proof.Machine
end

