-- ==== Sys2Proof/Laws/PerInstr.lean ====
section
/-! SUPPORT. The family OpcodeOfRow: the encoder gives each instruction the operation code of its row (R80), and the
wire patterns none (R82). -/

namespace Sys2Proof.Laws.OpcodeOfRow

/-- The `OP` column of R80; ILLEGAL keeps the code it was read from (R81). -/
def opcode : Instr → Option OpCode
  | .encode _ _ => some 0b0001#4
  | .decode _ => some 0b0010#4
  | .readFrame => some 0b0011#4
  | .readStep => some 0b0100#4
  | .exchange _ _ => some 0b0101#4
  | .xorfold _ => some 0b1000#4
  | .be16 _ => some 0b1001#4
  | .frameLength _ => some 0b1010#4
  | .stuffCount _ => some 0b1011#4
  | .expectedTotal _ => some 0b1100#4
  | .complete _ => some 0b1101#4
  | .destuff _ => some 0b1110#4
  | .illegal op => some op
  | .wPreamble _ _ => none
  | .wReqHeader _ _ => none
  | .wEscByte => none
  | .wEscPair => none
  | .wStatusOk => none
  | .wStatusErr _ => none

/-- The operation code the encoder writes; a window carries none. -/
def written : Code → Option OpCode
  | .request r => some r.op
  | .window _ => none

/-- What the encoder writes is the row's code. -/
def Statement (i : Instr) : Prop := written (Sys2Proof.encode i) = opcode i

theorem encode (cmd : Half) (segs : List (List Byte)) : Statement (.encode cmd segs) := rfl
theorem decode (raw : List Byte) : Statement (.decode raw) := rfl
theorem readFrame : Statement .readFrame := rfl
theorem readStep : Statement .readStep := rfl
theorem exchange (cmd : Half) (segs : List (List Byte)) : Statement (.exchange cmd segs) := rfl
theorem xorfold (bs : List Byte) : Statement (.xorfold bs) := rfl
theorem be16 (v : Half) : Statement (.be16 v) := rfl
theorem frameLength (segs : List (List Byte)) : Statement (.frameLength segs) := rfl
theorem stuffCount (bs : List Byte) : Statement (.stuffCount bs) := rfl
theorem expectedTotal (bs : List Byte) : Statement (.expectedTotal bs) := rfl
theorem complete (bs : List Byte) : Statement (.complete bs) := rfl
theorem destuff (bs : List Byte) : Statement (.destuff bs) := rfl
theorem illegal (op : OpCode) : Statement (.illegal op) := rfl
theorem wPreamble (b0 b1 : Byte) : Statement (.wPreamble b0 b1) := rfl
theorem wReqHeader (len : Byte) (cmd : Half) : Statement (.wReqHeader len cmd) := rfl
theorem wEscByte : Statement .wEscByte := rfl
theorem wEscPair : Statement .wEscPair := rfl
theorem wStatusOk : Statement .wStatusOk := rfl
theorem wStatusErr (status : Byte) : Statement (.wStatusErr status) := rfl

end Sys2Proof.Laws.OpcodeOfRow
end

