-- ==== Sys2Proof/Laws/Run.lean ====
section
/-! SUPPORT. Runs of several steps, the block's steps in a machine where only the block moves, and what the decoder can
read from a request. -/

namespace Sys2Proof

/-- The wire patterns of R82. -/
def Instr.isWirePattern : Instr → Bool
  | .wPreamble _ _ => true
  | .wReqHeader _ _ => true
  | .wEscByte => true
  | .wEscPair => true
  | .wStatusOk => true
  | .wStatusErr _ => true
  | _ => false

/-- Everything `withBytes` can answer. -/
theorem withBytes_cases (op : OpCode) (bytes : List Nat) (f : List Byte → Instr) :
    withBytes op bytes f = .illegal op ∨ ∃ bs, bytesOf bytes = some bs ∧ withBytes op bytes f = f bs := by
  unfold withBytes
  cases h : bytesOf bytes with
  | none => exact .inl rfl
  | some bs => exact .inr ⟨bs, rfl, rfl⟩

/-- Everything `withCommand` can answer. -/
theorem withCommand_cases (op : OpCode) (cmd : Nat) (segs : List (List Nat)) (f : Half → List (List Byte) → Instr) :
    withCommand op cmd segs f = .illegal op ∨
      ∃ c ss, halfOf cmd = some c ∧ segsOf segs = some ss ∧ withCommand op cmd segs f = f c ss := by
  unfold withCommand
  cases hc : halfOf cmd with
  | none => exact .inl rfl
  | some c =>
    cases hs : segsOf segs with
    | none => exact .inl rfl
    | some ss => exact .inr ⟨c, ss, rfl, rfl, rfl⟩

/-- A request never reads as a wire pattern. -/
theorem decodeRequest_not_wire (r : Request) : (decodeRequest r).isWirePattern = false := by
  unfold decodeRequest
  split
  all_goals first
    | rfl
    | (rcases withBytes_cases r.op r.bytes _ with h | ⟨_, _, h⟩ <;> rw [h] <;> rfl)
    | (rcases withCommand_cases r.op r.cmd r.segs _ with h | ⟨_, _, _, _, h⟩ <;> rw [h] <;> rfl)
    | (split <;> rfl)

namespace Machine

/-! ## Runs -/

theorem runSteps_zero (s : State) : runSteps 0 s = .next s := rfl

theorem runSteps_succ (n : Nat) (s : State) :
    runSteps (n + 1) s = match step s with
      | .next t => runSteps n t
      | .fault r => .fault r
      | .refused r => .refused r := by
  have h : Sys2Proof.core.step s = step s := rfl
  simp only [runSteps, Host.Core.run, h]
  cases step s <;> rfl

/-- A run goes on from where its first part ends. -/
theorem runSteps_add {m n : Nat} {s t : State} (h : runSteps m s = .next t) : runSteps (m + n) s = runSteps n t := by
  induction m generalizing s with
  | zero =>
    rw [runSteps_zero, Host.Outcome.next.injEq] at h
    rw [h, Nat.zero_add]
  | succ m ih =>
    rw [Nat.add_right_comm, runSteps_succ]
    rw [runSteps_succ] at h
    cases hs : step s with
    | next u => rw [hs] at h; exact ih h
    | fault r => rw [hs] at h; simp at h
    | refused r => rw [hs] at h; simp at h

/-! ## Where only the block moves -/

theorem step_reading {s : State} (hv : s.params.valid = true) (ht : s.turns = []) (hr : s.rphase = .reading) :
    step s = .next (retireIfEnded (readIteration s)) := by
  rw [step_of_valid hv, ht]
  simp [blockMove, nextInstr, hr, exec, execReadStep]

theorem step_port {s : State} {r : Request} {rest : List Request} (hv : s.params.valid = true) (ht : s.turns = [])
    (hr : s.rphase ≠ .reading) (hp : s.port = r :: rest) :
    step s = mapNext retireIfEnded (exec (decodeRequest r) s) := by
  rw [step_of_valid hv, ht]
  simp [blockMove, nextInstr, hr, hp]

/-! ## Reads that return data -/

@[simp] theorem dataReads_nil : dataReads [] = [] := rfl
@[simp] theorem dataReads_cons (d : DataRead) (ds : List DataRead) :
    dataReads (d :: ds) = .data d.1 d.2 :: dataReads ds := rfl
theorem dataReads_append (ds es : List DataRead) : dataReads (ds ++ es) = dataReads ds ++ dataReads es := by
  simp [dataReads]

@[simp] theorem arrivals_nil : arrivals [] = [] := rfl
@[simp] theorem arrivals_cons (d : DataRead) (ds : List DataRead) : arrivals (d :: ds) = d.1 ++ arrivals ds := by
  simp [arrivals]
theorem arrivals_append (ds es : List DataRead) : arrivals (ds ++ es) = arrivals ds ++ arrivals es := by
  simp [arrivals]

@[simp] theorem bytesTaken_nil (limit waiting : Nat) : bytesTaken limit waiting [] = 0 := rfl

/-- Reads return no more than what waits and what arrives. -/
theorem bytesTaken_le (limit waiting : Nat) (ds : List DataRead) :
    bytesTaken limit waiting ds ≤ waiting + (arrivals ds).length := by
  induction ds generalizing waiting with
  | nil => simp
  | cons d ds ih =>
    have := ih (waiting + d.1.length - min (min d.2 limit) (waiting + d.1.length))
    simp only [bytesTaken, arrivals_cons, List.length_append]
    omega

/-- What one more read returns. -/
theorem bytesTaken_append (limit waiting : Nat) (ds : List DataRead) (d : DataRead) :
    bytesTaken limit waiting (ds ++ [d]) =
      bytesTaken limit waiting ds +
        min (min d.2 limit) (waiting + (arrivals ds).length - bytesTaken limit waiting ds + d.1.length) := by
  induction ds generalizing waiting with
  | nil => simp [bytesTaken]
  | cons x ds ih =>
    have := bytesTaken_le limit (waiting + x.1.length - min (min x.2 limit) (waiting + x.1.length)) ds
    simp only [List.cons_append, bytesTaken, ih, arrivals_cons, List.length_append]
    omega

/-- Both budgets of a valid instance are positive. -/
theorem valid_pos {p : Params} (h : p.valid = true) : 0 < p.maxAttempts ∧ 0 < p.chunk := by
  simp only [Params.valid] at h
  split at h
  · constructor <;> omega
  · simp at h

end Machine

end Sys2Proof
end

