-- ==== Sys2Proof/Tests/Slice0.lean ====
section
/-! SUPPORT. Tests of the model, each about one step or one value; expected values are from spec/95_test_vectors.md and
from the encodings of spec/30_encoding.md R80 and R82. -/

namespace Sys2Proof.Tests

open Sys2Proof.Machine

/-! ## Words of the opcode table (R80, R82) -/

theorem test_word_encode : decodeTableWord 8 0b0001 = some (.encode 0 []) := by decide
theorem test_word_decode : decodeTableWord 8 0b0010 = some (.decode []) := by decide
theorem test_word_readFrame : decodeTableWord 8 0b0011 = some .readFrame := by decide
theorem test_word_readStep : decodeTableWord 8 0b0100 = some .readStep := by decide
theorem test_word_exchange : decodeTableWord 8 0b0101 = some (.exchange 0 []) := by decide
theorem test_word_xorfold : decodeTableWord 8 0b1000 = some (.xorfold []) := by decide
theorem test_word_be16 : decodeTableWord 8 0b1001 = some (.be16 0) := by decide
theorem test_word_frameLength : decodeTableWord 8 0b1010 = some (.frameLength []) := by decide
theorem test_word_stuffCount : decodeTableWord 8 0b1011 = some (.stuffCount []) := by decide
theorem test_word_expectedTotal : decodeTableWord 8 0b1100 = some (.expectedTotal []) := by decide
theorem test_word_complete : decodeTableWord 8 0b1101 = some (.complete []) := by decide
theorem test_word_destuff : decodeTableWord 8 0b1110 = some (.destuff []) := by decide
theorem test_word_illegal : decodeTableWord 16 0x067F = some (.illegal 0b1111) := by decide
theorem test_word_wPreamble : decodeTableWord 16 0xAABB = some (.wPreamble 0xAA 0xBB) := by decide
theorem test_word_wReqHeader :
    decodeTableWord 64 0xAABB060000000101 = some (.wReqHeader 0x06 0x0101) := by decide
theorem test_word_wEscByte : decodeTableWord 8 0xAA = some .wEscByte := by decide
theorem test_word_wEscPair : decodeTableWord 16 0xAA00 = some .wEscPair := by decide
theorem test_word_wStatusOk : decodeTableWord 8 0x00 = some .wStatusOk := by decide
theorem test_word_wStatusErr : decodeTableWord 8 0x80 = some (.wStatusErr 0x80) := by decide


/-! ## Requests with arguments, and requests of the wrong shape (R80, R81) -/

theorem test_request_encode :
    decodeRequest ⟨0b0001#4, 0x0207, [[0x60, 0x04], [], [0xFF]], [9]⟩ =
      .encode 0x0207#16 [[0x60#8, 0x04#8], [], [0xFF#8]] := by decide
theorem test_request_exchange :
    decodeRequest ⟨0b0101#4, 0xFFFF, [[0x03]], []⟩ = .exchange 0xFFFF#16 [[0x03#8]] := by decide
theorem test_request_decode : decodeRequest ⟨0b0010#4, 0, [], [0xAA, 0xBB]⟩ = .decode [0xAA#8, 0xBB#8] := by decide
theorem test_request_be16 : decodeRequest ⟨0b1001#4, 0xAA00, [], []⟩ = .be16 0xAA00#16 := by decide
theorem test_request_wide_command : decodeRequest ⟨0b0001#4, 0x10000, [], []⟩ = .illegal 0b0001#4 := by decide
theorem test_request_non_byte : decodeRequest ⟨0b1110#4, 0, [], [0, 256]⟩ = .illegal 0b1110#4 := by decide
theorem test_request_unused_codes :
    decodeRequest ⟨0b0000#4, 0, [], []⟩ = .illegal 0b0000#4 ∧ decodeRequest ⟨0b0110#4, 0, [], []⟩ = .illegal 0b0110#4 ∧
    decodeRequest ⟨0b0111#4, 0, [], []⟩ = .illegal 0b0111#4 ∧ decodeRequest ⟨0b1111#4, 0, [], []⟩ = .illegal 0b1111#4 := by
  decide
theorem test_window_header_mask :
    decodeWindow ⟨.reqHeader, 0, [0xAA#8, 0xBB#8, 0x0D#8, 0x01#8, 0x00#8, 0x00#8, 0x02#8, 0x07#8]⟩ = none := by decide
theorem test_window_offsets :
    decodeWindow ⟨.escByte, 1, [0xAA#8]⟩ = none ∧ decodeWindow ⟨.escByte, 2, [0xAA#8]⟩ = some .wEscByte ∧
    decodeWindow ⟨.escPair, 2, [0xAA#8, 0x00#8]⟩ = none ∧ decodeWindow ⟨.status, 7, [0x00#8]⟩ = none := by decide

/-! ## Ill-formed terms, one for each check of `wellFormed` -/

theorem test_ill_expectedTotal : wellFormed (.expectedTotal [0xAA#8, 0xBB#8]) = false := by decide
theorem test_ill_illegal_readFrame : wellFormed (.illegal 0b0011#4) = false := by decide
theorem test_ill_illegal_readStep : wellFormed (.illegal 0b0100#4) = false := by decide
theorem test_ill_wPreamble_first : wellFormed (.wPreamble 0xAB#8 0xBB#8) = false := by decide
theorem test_ill_wPreamble_second : wellFormed (.wPreamble 0xAA#8 0xBA#8) = false := by decide
theorem test_ill_wStatusErr : wellFormed (.wStatusErr 0x00#8) = false := by decide

/-! ## States the tests start from -/

/-- An instance with attempt budget `n`, powered on and opened: the start state of 95_test_vectors.md section 9. -/
def opened (n : Nat) : State := { State.powerOn ⟨128, n, 0⟩ with tstate := .opened }

/-- The request that stands for an instruction. -/
def requestOf (i : Instr) : Request :=
  match encode i with
  | .request r => r
  | .window _ => ⟨0b0000#4, 0, [], []⟩

/-- That request at the port of an opened, idle instance. -/
def waiting (n : Nat) (i : Instr) : State := { opened n with port := [requestOf i] }

/-- A READ_FRAME of the port under way. -/
def reading (n : Nat) (buf : List Byte) (att : Nat) : State :=
  { waiting n .readFrame with lock := .held, rphase := .reading, rbuf := buf, att := att }

/-- The request of the source's worked example. -/
def setBaud : Instr := .exchange 0x0101#16 [[0x03#8]]

/-- Its frame (L1-1). -/
def setBaudFrame : List Byte := [0xAA#8, 0xBB#8, 0x06#8, 0x00#8, 0x00#8, 0x00#8, 0x01#8, 0x01#8, 0x03#8, 0x03#8]

/-- The response r1 (V-D1). -/
def r1 : List Byte := [0xAA#8, 0xBB#8, 0x06#8, 0x00#8, 0x00#8, 0x00#8, 0x01#8, 0x01#8, 0x00#8, 0x00#8]

/-- The exchange of the worked example in a phase of its own. -/
def exchanging (n : Nat) (l : Lock) (x : XPhase) (r : RPhase) (buf : List Byte) (att : Nat) : State :=
  { waiting n setBaud with lock := l, xphase := x, txf := setBaudFrame, rphase := r, rbuf := buf, att := att }

/-- What an outcome leaves in `RES`. -/
def resOf : Host.Outcome State Fault Refusal → Res
  | .next t => t.res
  | .fault _ => .none
  | .refused _ => .none

/-- The next state of an outcome. -/
def nextOf : Host.Outcome State Fault Refusal → Option State
  | .next t => some t
  | .fault _ => none
  | .refused _ => none

/-! ## One step, or one meaning, of each instruction (95_test_vectors.md) -/

theorem test_encode_E1 :
    resOf (exec (.encode 0x0101#16 [[0x03#8]]) (opened 1)) = .ok (.bytes setBaudFrame) := by decide
theorem test_encode_E8_not_stuffed :
    resOf (exec (.encode 0x0102#16 [[0xAA#8]]) (opened 1)) =
      .ok (.bytes [0xAA#8, 0xBB#8, 0x06#8, 0x00#8, 0x00#8, 0x00#8, 0x01#8, 0x02#8, 0xAA#8, 0xA9#8]) := by decide
theorem test_decode_D4 :
    resOf (exec (.decode [0xAA#8, 0xBB#8, 0x08#8, 0x00#8, 0x00#8, 0x00#8, 0x01#8, 0x01#8, 0x00#8, 0xAB#8, 0x01#8,
      0xAA#8, 0x00#8]) (opened 1)) = .ok (.bytes [0xAB#8, 0x01#8]) := by decide
theorem test_decode_D23_status_first :
    resOf (exec (.decode [0xAA#8, 0xBB#8, 0x06#8, 0x00#8, 0x00#8, 0x00#8, 0x01#8, 0x01#8, 0x01#8, 0x7F#8]) (opened 1)) =
      .err (.deviceStatusError 0x01#8) := by decide
theorem test_readFrame_accepted :
    nextOf (step (waiting 2 .readFrame)) = some (reading 2 [] 0) := by decide
theorem test_readFrame_returns_R6 :
    nextOf (step { reading 1 (r1 ++ [0x55#8, 0x66#8]) 1 with rphase := .done }) =
      some { opened 1 with
        rphase := .done, rbuf := r1 ++ [0x55#8, 0x66#8], att := 1, res := .ok (.bytes (r1 ++ [0x55#8, 0x66#8])) } := by
  decide
/-- The example of R114: the last byte arrives in the last allowed read. -/
theorem test_readStep_last_read_completes :
    nextOf (step { reading 4 (r1.take 9) 3 with reads := [.data [0x00#8] 128] }) =
      some { reading 4 r1 4 with rphase := .done } := by decide
/-- The example of R114: an empty last read. -/
theorem test_readStep_budget_spent :
    nextOf (step { reading 4 (r1.take 9) 3 with reads := [.data [] 128] }) =
      some { opened 4 with rphase := .failed, rbuf := r1.take 9, att := 4, res := .err (.readTimeout 4 9) } := by decide
theorem test_exchange_X1_writes :
    nextOf (step { exchanging 2 .held .write .idle [] 0 with writes := [.ok] }) =
      some { exchanging 2 .held .read .reading [] 0 with outbound := setBaudFrame } := by decide
theorem test_exchange_X2_decodes :
    nextOf (step (exchanging 4 .free .decode .done
      [0xAA#8, 0xBB#8, 0x06#8, 0x00#8, 0x00#8, 0x00#8, 0x01#8, 0x01#8, 0x05#8, 0x05#8] 1)) =
      some { opened 4 with
        txf := setBaudFrame, rphase := .done, att := 1, res := .err (.deviceStatusError 0x05#8),
        rbuf := [0xAA#8, 0xBB#8, 0x06#8, 0x00#8, 0x00#8, 0x00#8, 0x01#8, 0x01#8, 0x05#8, 0x05#8] } := by decide
theorem test_xorfold_E14 :
    resOf (exec (.xorfold [0x00#8, 0x00#8, 0x00#8, 0x01#8, 0x01#8, 0x03#8]) (opened 1)) = .ok (.bytes [0x03#8]) := by decide
theorem test_xorfold_E15 : resOf (exec (.xorfold [0xAA#8, 0xAA#8]) (opened 1)) = .ok (.bytes [0x00#8]) := by decide
theorem test_be16_E16 : resOf (exec (.be16 0xAA00#16) (opened 1)) = .ok (.bytes [0xAA#8, 0x00#8]) := by decide
theorem test_frameLength_E17 :
    resOf (exec (.frameLength [List.replicate 165 0x00#8]) (opened 1)) = .ok (.natural 170) := by
  simp [resOf, exec, execFrameLength, frameLength, payloadLength, answer, Res.ofExcept, Config.maxLength, Config.hdrLen,
    -List.reduceReplicate]
theorem test_frameLength_E18 :
    resOf (exec (.frameLength [List.replicate 250 0x00#8, [0x00#8]]) (opened 1)) = .err (.frameTooLarge 256) := by
  simp [resOf, exec, execFrameLength, frameLength, payloadLength, answer, Res.ofExcept, Config.maxLength, Config.hdrLen,
    -List.reduceReplicate]
theorem test_stuffCount_F5 : resOf (exec (.stuffCount [0xAA#8, 0xBB#8, 0xAA#8]) (opened 1)) = .ok (.natural 1) := by decide
theorem test_stuffCount_F2 : resOf (exec (.stuffCount [0xAA#8]) (opened 1)) = .ok (.natural 0) := by decide
theorem test_expectedTotal_F5 :
    resOf (exec (.expectedTotal [0xAA#8, 0xBB#8, 0xAA#8]) (opened 1)) = .ok (.natural 175) := by decide
theorem test_expectedTotal_F3 :
    resOf (exec (.expectedTotal [0xAA#8, 0xBB#8]) (opened 1)) = .err (.illegalOperation 0b1100#4) := by decide
theorem test_complete_F6 :
    resOf (exec (.complete [0xAA#8, 0xBB#8, 0x00#8, 0x00#8]) (opened 1)) = .ok (.boolean true) := by decide
theorem test_complete_F7 : resOf (exec (.complete (r1.take 9)) (opened 1)) = .ok (.boolean false) := by decide
theorem test_destuff_S4 :
    resOf (exec (.destuff [0xAA#8, 0x00#8, 0x00#8, 0xAA#8, 0xAA#8, 0x00#8, 0x55#8]) (opened 1)) =
      .ok (.bytes [0xAA#8, 0x00#8, 0xAA#8, 0xAA#8, 0x55#8]) := by decide
theorem test_destuff_S6 : resOf (exec (.destuff [0x00#8]) (opened 1)) = .ok (.bytes [0x00#8]) := by decide
theorem test_illegal_changes_only_res :
    nextOf (step { opened 1 with rbuf := [0x01#8], port := [⟨0b0110#4, 0, [], []⟩] }) =
      some { opened 1 with rbuf := [0x01#8], res := .err (.illegalOperation 0b0110#4) } := by decide
/-- V-D19 at the port: its preamble window raises what DECODE raises, and the request is answered. -/
theorem test_wPreamble_D19 :
    nextOf (step { waiting 1 (.decode (0xAA#8 :: 0xBA#8 :: r1.drop 2)) with
      turns := [.window ⟨.preamble, 0, [0xAA#8, 0xBA#8]⟩] }) =
      some { opened 1 with res := .err (.invalidPreamble [0xAA#8, 0xBA#8]) } := by decide
/-- A window that the buffer does not show has no effect. -/
theorem test_wPreamble_not_in_buffer :
    nextOf (step { waiting 1 (.decode r1) with turns := [.window ⟨.preamble, 0, [0xAA#8, 0xBA#8]⟩] }) =
      some (waiting 1 (.decode r1)) := by decide
theorem test_wReqHeader_no_effect :
    nextOf (step { opened 1 with turns := [.window ⟨.reqHeader, 0, setBaudFrame.take 8⟩] }) = some (opened 1) := by decide
theorem test_wEscByte_no_effect :
    nextOf (step { reading 1 [0xAA#8] 0 with turns := [.window ⟨.escByte, 9, [0xAA#8]⟩] }) = some (reading 1 [0xAA#8] 0) := by decide
theorem test_wEscPair_no_effect :
    nextOf (step { opened 1 with turns := [.window ⟨.escPair, 9, [0xAA#8, 0x00#8]⟩] }) = some (opened 1) := by decide
theorem test_wStatusOk_no_effect :
    nextOf (step { opened 1 with turns := [.window ⟨.status, 8, [0x00#8]⟩] }) = some (opened 1) := by decide
/-- V-X2 in `X_DECODE`: the status window ends the exchange as its own decode does. -/
theorem test_wStatusErr_X2 :
    nextOf (step { exchanging 4 .free .decode .done (r1.take 8 ++ [0x05#8, 0x05#8]) 1 with
      turns := [.window ⟨.status, 8, [0x05#8]⟩] }) =
      nextOf (step (exchanging 4 .free .decode .done (r1.take 8 ++ [0x05#8, 0x05#8]) 1)) := by decide
/-- R127: a status behind a bad preamble is not reported. -/
theorem test_wStatusErr_behind_bad_preamble :
    nextOf (step { exchanging 4 .free .decode .done (0xAB#8 :: r1.tail.take 7 ++ [0x05#8, 0x05#8]) 1 with
      turns := [.window ⟨.status, 8, [0x05#8]⟩] }) =
      some (exchanging 4 .free .decode .done (0xAB#8 :: r1.tail.take 7 ++ [0x05#8, 0x05#8]) 1) := by decide

/-! ## The environment's moves, the fault and the refusal -/

theorem test_payload_of_none_faults : step { opened 1 with turns := [.takesPayload] } = .fault .payloadOfNone := rfl
theorem test_no_attempts_refused : step (opened 0) = .refused .invalidInstance := rfl
/-- V-X5 at its write, in a transport that is closed. -/
theorem test_write_while_closed :
    nextOf (step { exchanging 4 .held .write .idle [] 0 with tstate := .closed }) =
      some { opened 4 with txf := setBaudFrame, tstate := .closed, res := .err (.transportError .notOpen) } := by decide

/-! ## The first instruction after reset -/

theorem test_reset_runs_encode :
    resOf (step (State.reset.withFetchWord 8 0b0001)) =
      .ok (.bytes [0xAA#8, 0xBB#8, 0x05#8, 0x00#8, 0x00#8, 0x00#8, 0x00#8, 0x00#8, 0x00#8]) := by decide
theorem test_reset_runs_status_window :
    resOf (step (State.reset.withFetchWord 8 0x80)) = .err (.deviceStatusError 0x80#8) := by decide

/-! ## Witnesses: for each statement with hypotheses, data that meet them together -/

theorem test_witness_StepRunsRequestAtPort :
    (BlockMoves { waiting 1 .readFrame with turns := [.block, .opens] } [.opens] ∧
      (waiting 1 .readFrame).rphase ≠ .reading ∧ (waiting 1 .readFrame).port = [requestOf .readFrame]) ∧
    (BlockMoves (opened 1) [] ∧ (opened 1).rphase ≠ .reading ∧ (opened 1).port = []) :=
  ⟨⟨⟨rfl, .inr rfl⟩, by decide, rfl⟩, ⟨⟨rfl, .inl ⟨rfl, rfl⟩⟩, by decide, rfl⟩⟩

theorem test_witness_StepRunsReadStepWhileReading :
    BlockMoves (reading 1 [] 0) [] ∧ (reading 1 [] 0).rphase = .reading := ⟨⟨rfl, .inl ⟨rfl, rfl⟩⟩, rfl⟩

theorem test_witness_StepRunsWirePattern :
    (opened 1).params.valid = true ∧
    ({ opened 1 with turns := [.window ⟨.escPair, 3, [0xAA#8, 0x00#8]⟩] } : State).turns =
      .window ⟨.escPair, 3, [0xAA#8, 0x00#8]⟩ :: [] ∧
    decode (.window ⟨.escPair, 3, [0xAA#8, 0x00#8]⟩) = some .wEscPair ∧
    decode (.window ⟨.escPair, 2, [0xAA#8, 0x00#8]⟩) = none := by decide

theorem test_witness_EncodedInstructionDecodes :
    wellFormed (.expectedTotal [0xAA#8, 0xBB#8, 0x06#8]) = true ∧ wellFormed (.illegal 0b1111#4) = true ∧
    wellFormed (.wPreamble 0xAA#8 0xBB#8) = true ∧ wellFormed (.wStatusErr 0x01#8) = true ∧
    wellFormed (.exchange 0xAA00#16 [[0xAA#8], []]) = true := by decide

/-- A request of the wrong shape at the port of an opened, idle instance. -/
def asking (r : Request) : State := { opened 1 with port := [r] }

theorem test_witness_IllegalRequestsChangeOnlyRes_accepts (r : Request) : Accepts (asking r) r [] :=
  ⟨rfl, rfl, rfl, rfl⟩

theorem test_witness_IllegalRequestsChangeOnlyRes_shapes :
    (65536 ≤ (⟨0b0001#4, 65536, [], []⟩ : Request).cmd ∧ 65536 ≤ (⟨0b0101#4, 65536, [], []⟩ : Request).cmd ∧
      65536 ≤ (⟨0b1001#4, 65536, [], []⟩ : Request).cmd) ∧
    (∃ seg ∈ (⟨0b0001#4, 0, [[], [255, 256]], []⟩ : Request).segs, ∃ n ∈ seg, 256 ≤ n) ∧
    (∃ seg ∈ (⟨0b1010#4, 0, [[256]], []⟩ : Request).segs, ∃ n ∈ seg, 256 ≤ n) ∧
    (∃ n ∈ (⟨0b1000#4, 0, [], [256]⟩ : Request).bytes, 256 ≤ n) ∧
    (⟨0b1100#4, 0, [], [0xAA, 0xBB]⟩ : Request).bytes.length < 3 := by decide

theorem test_witness_XorfoldIgnoresOrderAndZeros :
    (([0x01#8, 0x00#8, 0x02#8] : List Byte).filter (fun b => decide (b ≠ 0x00#8))).Perm
      (([0x02#8, 0x01#8] : List Byte).filter (fun b => decide (b ≠ 0x00#8))) := by decide

/-- The boundary of `P` for FrameLengthAnswers, EncodeAnswersFrame, EncodedFrameLaws, ExchangePhasesAdvance and
OverlongExchangeTouchesNothing. -/
theorem test_witness_payload_boundary :
    [List.replicate 250 (0x00#8 : Byte)].flatten.length ≤ 250 ∧
    250 < [List.replicate 250 (0x00#8 : Byte), [0xFF#8]].flatten.length := by
  simp [-List.reduceReplicate]

theorem test_witness_SegmentBoundariesLeaveNoTrace :
    ([[0x01#8, 0x02#8]] : List (List Byte)).flatten = ([[0x01#8], [], [0x02#8]] : List (List Byte)).flatten := by decide

theorem test_witness_LengthRuleAnswers : ([0xAA#8, 0xBB#8] : List Byte).length < 3 := by decide

theorem test_witness_CompletenessIsNeverLost : complete [0xAA#8, 0xBB#8, 0x00#8, 0x00#8] = true := by decide

/-- The boundaries of the body's length for WellFormedResponseLength and WellFormedResponseCompletesAtItsEnd. -/
theorem test_witness_body_boundaries :
    (6 ≤ (List.replicate 6 (0xAA#8 : Byte)).length ∧ (List.replicate 6 (0xAA#8 : Byte)).length ≠ 0xAA) ∧
    ((List.replicate 255 (0xAA#8 : Byte)).length ≤ 255 ∧ (List.replicate 255 (0xAA#8 : Byte)).length ≠ 0xAA) := by
  simp [-List.reduceReplicate]

theorem test_witness_EscapeLengthByteDelaysCompletion : (List.replicate 170 (0x00#8 : Byte)).length = 0xAA := by
  simp [-List.reduceReplicate]

theorem test_witness_ChecksumVerdictSurvivesDestuffing : ([0xAA#8] : List Byte) ≠ [] := by decide

theorem test_witness_WellFormedResponseDecodes :
    (List.replicate 249 (0xAA#8 : Byte)).length ≤ 249 ∧ (0x00#8 : Byte) ≠ 0xAA#8 ∧ (0xAB#8 : Byte) ≠ 0xAA#8 := by
  simp [-List.reduceReplicate]

/-- V-D11: a failing status behind a stuffed command byte. -/
theorem test_witness_StatusMissedBehindStuffedCommand :
    ([0x12#8] : List Byte).length ≤ 249 ∧ (0x00#8 : Byte) ≠ 0xAA#8 ∧ (0x01#8 : Byte) ≠ 0xAA#8 := by decide

/-- V-D13b; its frame has neither a length byte nor a checksum `0xAA`. -/
theorem test_witness_EncodedRequestDecodesBack :
    ([[0x11#8, 0x22#8]] : List (List Byte)).flatten.length ≤ 249 ∧ 0xAA#8 ∉ be16 0x0102#16 ∧
    0xAA#8 ∉ ([[0x11#8, 0x22#8]] : List (List Byte)).flatten ∧
    encodeFrame 0x0102#16 [[0x00#8], [0x11#8, 0x22#8]] =
      .ok [0xAA#8, 0xBB#8, 0x08#8, 0x00#8, 0x00#8, 0x00#8, 0x01#8, 0x02#8, 0x00#8, 0x11#8, 0x22#8, 0x30#8] :=
  ⟨by decide, by decide, by decide, rfl⟩

/-- The frame of V-D14, and its last offset. -/
theorem test_witness_SingleBitFlipsAreReported :
    let f : List Byte :=
      [0xAA#8, 0xBB#8, 0x08#8, 0x00#8, 0x00#8, 0x00#8, 0x01#8, 0x01#8, 0x00#8, 0x12#8, 0x34#8, 0x26#8]
    exec (.decode f) (opened 1) = .next { opened 1 with res := .ok (.bytes [0x12#8, 0x34#8]) } ∧ 0xAA#8 ∉ f.drop 3 ∧
    f[0]? = some 0xAA#8 ∧ f[1]? = some 0xBB#8 ∧ f[2]? = some 0x08#8 ∧ f[3]? = some 0x00#8 ∧ f[8]? = some 0x00#8 ∧
    f[11]? = some 0x26#8 :=
  ⟨rfl, by decide, rfl, rfl, rfl, rfl, rfl, rfl⟩

theorem test_witness_ReadFrameStartsUnderLock : (waiting 1 .readFrame).lock = .free := by decide

theorem test_witness_ReadFrameHandsOverWholeBuffer :
    ({ reading 1 r1 1 with rphase := .done } : State).lock = .held ∧
    ({ reading 1 r1 1 with rphase := .done } : State).xphase = .idle ∧
    ({ reading 1 r1 1 with rphase := .done } : State).rphase = .done := by decide

/-- The three clauses at the last read and at the one before it; ReadStepRaisesOnFailure and DataReadConservesBytes
start from the same states. -/
theorem test_witness_ReadStepAppendsData :
    (reading 4 (r1.take 9) 3).rphase = .reading ∧ (reading 4 (r1.take 9) 3).tstate = .opened ∧
    complete (r1.take 9 ++ ([] ++ [0x00#8]).take (min 128 128)) = true ∧
    complete (r1.take 9 ++ ([] ++ []).take (min 128 128)) = false ∧
    (2 : Nat) + 1 < (reading 4 (r1.take 9) 2).params.maxAttempts ∧
    (reading 4 (r1.take 9) 3).params.maxAttempts ≤ 3 + 1 := by decide

theorem test_witness_ReadStepRaisesOnFailure :
    ({ reading 2 [] 0 with reads := [.timeout] } : State).reads = [.timeout] ∧
    ({ reading 2 [] 0 with reads := [.fail .ioError] } : State).reads = [.fail .ioError] ∧
    ({ reading 2 [] 0 with reads := [.closes 1] } : State).reads = [.closes 1] ∧
    ({ reading 2 [] 0 with tstate := .closed } : State).tstate = .closed ∧ (reading 2 [] 0).rphase = .reading := by decide

theorem test_witness_UnlistedReadTakesFreeChoice :
    (reading 2 [] 0).rphase = .reading ∧ (reading 2 [] 0).reads = [] ∧ (reading 2 [] 0).tstate = .opened := by decide

theorem test_witness_ReadStepOnPortIsIllegal : (waiting 1 .readStep).rphase ≠ .reading := by decide

theorem test_witness_DataReadConservesBytes :
    ({ reading 2 [] 0 with reads := [.data [0x01#8, 0x02#8] 1] } : State).reads = [.data [0x01#8, 0x02#8] 1] ∧
    ∃ t, exec .readStep { reading 2 [] 0 with reads := [.data [0x01#8, 0x02#8] 1] } = .next t := ⟨rfl, _, rfl⟩

/-- READ_FRAME at the port of an opened, idle instance: what its whole-run statements start from. -/
theorem test_witness_readFrame_accepts (n : Nat) (inbound : List Byte) (reads : List RxChoice) :
    Accepts { waiting (n + 1) .readFrame with inbound := inbound, reads := reads } (requestOf .readFrame) [] ∧
    decodeRequest (requestOf .readFrame) = .readFrame ∧ (waiting (n + 1) .readFrame).tstate = .opened :=
  ⟨⟨rfl, rfl, rfl, rfl⟩, rfl, rfl⟩

/-- V-R2 with its first two bytes unread from before: the read takes four of the six bytes it finds, the second read the
rest, and a stale byte stays. -/
theorem test_witness_ReadFrameJoinsChunks_complete :
    let stream : List Byte := r1.take 2 ++ arrivals ([((r1.drop 2).take 4, 4)] ++ [(r1.drop 6 ++ [0x77#8], 6)])
    let i := bytesTaken 128 (r1.take 2).length [((r1.drop 2).take 4, 4)]
    let j := bytesTaken 128 (r1.take 2).length ([((r1.drop 2).take 4, 4)] ++ [(r1.drop 6 ++ [0x77#8], 6)])
    complete (stream.take 10) = true ∧ (∀ m, m < 10 → complete (stream.take m) = false) ∧ i < 10 ∧ 10 ≤ j ∧
    [(r1.take 4, 4)].length + 1 ≤ (waiting 2 .readFrame).params.maxAttempts := by decide

/-- V-R5. -/
theorem test_witness_ReadFrameJoinsChunks_timeout :
    let ds : List DataRead := [(r1.take 2, 128), ([], 128)]
    ds.length = (waiting 2 .readFrame).params.maxAttempts ∧
    complete (([] ++ arrivals ds).take (bytesTaken 128 0 ds)) = false := by decide

theorem test_witness_ReadFrameTimesOutWithoutIoFailure :
    (waiting 2 .readFrame).params.maxAttempts ≤ [RxChoice.data (r1.take 5) 128, .timeout].length ∧
    ∀ c ∈ [RxChoice.data (r1.take 5) 128, .timeout], RxChoice.noIoFailure c = true := by decide

theorem test_witness_ExchangePhasesAdvance :
    (waiting 2 setBaud).xphase = .idle ∧ (exchanging 2 .free .encode .idle [] 0).xphase = .encode ∧
    encodeFrame 0x0101#16 [[0x03#8]] = .ok setBaudFrame ∧
    (exchanging 2 .held .read .done r1 2).xphase = .read ∧ (exchanging 2 .held .read .done r1 2).rphase = .done :=
  ⟨rfl, rfl, rfl, rfl, rfl⟩

theorem test_witness_ExchangeWritesFrameOnce :
    (exchanging 2 .held .write .idle [] 0).xphase = .write ∧ (exchanging 2 .held .write .idle [] 0).tstate = .opened ∧
    ({ exchanging 2 .held .write .idle [] 0 with writes := [.ok] } : State).writes = [.ok] ∧
    ({ exchanging 2 .held .write .idle [] 0 with writes := [.fail .ioError 3] } : State).writes = [.fail .ioError 3] ∧
    ({ exchanging 2 .held .write .idle [] 0 with writes := [.closes 0 9] } : State).writes = [.closes 0 9] ∧
    (exchanging 2 .held .write .idle [] 0).writes = [] ∧
    ({ exchanging 2 .held .write .idle [] 0 with tstate := .closed } : State).tstate = .closed := by decide

theorem test_witness_ExchangeDecodesBuffer :
    (exchanging 2 .free .decode .done r1 2).xphase = .decode ∧ (exchanging 2 .free .decode .done r1 2).lock = .free ∧
    ∃ t, exec (.decode (exchanging 2 .free .decode .done r1 2).rbuf) (exchanging 2 .free .decode .done r1 2) = .next t :=
  ⟨rfl, rfl, _, rfl⟩

/-- V-X1, the two reads of program P1; and program P4's second exchange, which finds stale bytes. -/
theorem test_witness_ExchangeReturnsDecodedResponse (inbound : List Byte) (reads : List RxChoice) :
    Accepts { waiting 2 setBaud with inbound := inbound, writes := [.ok], reads := reads } (requestOf setBaud) [] ∧
    decodeRequest (requestOf setBaud) = .exchange 0x0101#16 [[0x03#8]] ∧
    encodeFrame 0x0101#16 [[0x03#8]] = .ok setBaudFrame ∧ (waiting 2 setBaud).tstate = .opened :=
  ⟨⟨rfl, rfl, rfl, rfl⟩, by decide, rfl, rfl⟩

theorem test_witness_ExchangeReturnsDecodedResponse_reads :
    (let before : List DataRead := [(r1.take 4, 128)];
      let last : DataRead := (r1.drop 4, 128);
      complete (([] ++ arrivals (before ++ [last])).take (bytesTaken 128 0 before)) = false ∧
      complete (([] ++ arrivals (before ++ [last])).take (bytesTaken 128 0 (before ++ [last]))) = true ∧
      before.length + 1 ≤ (waiting 2 setBaud).params.maxAttempts) ∧
    (let stale : List Byte := r1.drop 4;
      complete ((stale ++ arrivals ([] ++ [(r1, 128)])).take (bytesTaken 128 stale.length [])) = false ∧
      complete ((stale ++ arrivals ([] ++ [(r1, 128)])).take (bytesTaken 128 stale.length ([] ++ [(r1, 128)]))) = true) := by
  decide

theorem test_witness_ExchangeEndsWithinBudget :
    Accepts (waiting 1 setBaud) (requestOf setBaud) [] ∧
    decodeRequest (requestOf setBaud) = .exchange 0x0101#16 [[0x03#8]] := ⟨⟨rfl, rfl, rfl, rfl⟩, by decide⟩

theorem bytesOf_replicate_zero (n : Nat) : bytesOf (List.replicate n 0) = some (List.replicate n 0x00#8) := by
  induction n with
  | zero => rfl
  | succ n ih => simp [List.replicate_succ, bytesOf, byteOf, ih]

theorem test_witness_OverlongExchangeTouchesNothing :
    let r : Request := ⟨0b0101#4, 0x0101, [List.replicate 251 0], []⟩
    Accepts (asking r) r [] ∧ decodeRequest r = .exchange 0x0101#16 [List.replicate 251 0x00#8] ∧
    250 < [List.replicate 251 (0x00#8 : Byte)].flatten.length :=
  ⟨⟨rfl, rfl, rfl, rfl⟩,
    by simp [decodeRequest, withCommand, halfOf, segsOf, bytesOf_replicate_zero, -List.reduceReplicate],
    by simp [-List.reduceReplicate]⟩

theorem test_witness_ClosedTransportEndsOperations :
    (Accepts { waiting 1 setBaud with tstate := .closed } (requestOf setBaud) [] ∧
      decodeRequest (requestOf setBaud) = .exchange 0x0101#16 [[0x03#8]] ∧
      encodeFrame 0x0101#16 [[0x03#8]] = .ok setBaudFrame) ∧
    (Accepts { waiting 1 .readFrame with tstate := .closed } (requestOf .readFrame) [] ∧
      decodeRequest (requestOf .readFrame) = .readFrame) :=
  ⟨⟨⟨rfl, rfl, rfl, rfl⟩, by decide, rfl⟩, ⟨⟨rfl, rfl, rfl, rfl⟩, rfl⟩⟩

theorem test_witness_FailingPatternsRaise :
    (0x05#8 : Byte) ≠ 0x00#8 ∧ ([0xAA#8, 0xBA#8] : List Byte) ≠ [0xAA#8, 0xBB#8] ∧
    (exchanging 1 .free .decode .done r1 1).xphase = .decode ∧
    ((waiting 1 (.decode r1)).isIdle = true ∧ (waiting 1 (.decode r1)).port = [requestOf (.decode r1)] ∧
      decodeRequest (requestOf (.decode r1)) = .decode r1) ∧
    (reading 1 [] 0).xphase ≠ .decode ∧ (reading 1 [] 0).isIdle = false := by decide

theorem test_witness_PatternErrorsAreTheDecoders :
    (let s := exchanging 1 .free .decode .done (r1.take 8 ++ [0x05#8, 0x05#8]) 1;
      s.xphase = .decode ∧ s.rbuf.take 2 = [0xAA#8, 0xBB#8] ∧ s.rbuf[8]? = some 0x05#8 ∧ (0x05#8 : Byte) ≠ 0x00#8) ∧
    (let s := exchanging 1 .free .decode .done [0x00#8, 0xBB#8, 0x00#8, 0x00#8] 1;
      s.xphase = .decode ∧ s.rbuf = 0x00#8 :: 0xBB#8 :: [0x00#8, 0x00#8] ∧
      ([0x00#8, 0xBB#8] : List Byte) ≠ [0xAA#8, 0xBB#8]) := by decide

/-- The invariant in the middle of an exchange, where it says the most. -/
theorem test_inv_mid_exchange :
    Inv { exchanging 2 .held .read .reading (r1.take 4) 1 with reads := [.data (r1.drop 4) 128] } where
  params_valid := rfl
  control := rfl
  exchange_runs := fun _ => ⟨_, _, _, _, rfl, rfl⟩
  readFrame_runs := fun h _ => absurd h (by decide)
  txf_length := by decide
  txf_frame := fun h => absurd h (by decide)
  att_budget := by decide
  att_reading := by decide
  rbuf_length := by decide
  reading_incomplete := by decide
  done_complete := by decide

theorem test_inv_before_write : Inv (exchanging 2 .held .write .idle [] 0) where
  params_valid := rfl
  control := rfl
  exchange_runs := fun _ => ⟨_, _, _, _, rfl, rfl⟩
  readFrame_runs := fun h _ => absurd h (by decide)
  txf_length := by decide
  txf_frame := fun _ => ⟨_, _, _, _, rfl, rfl, rfl⟩
  att_budget := by decide
  att_reading := by decide
  rbuf_length := by decide
  reading_incomplete := by decide
  done_complete := by decide

theorem test_inv_readFrame_done : Inv { reading 2 r1 2 with rphase := .done } where
  params_valid := rfl
  control := rfl
  exchange_runs := fun h => absurd rfl h
  readFrame_runs := fun _ _ => ⟨_, _, rfl, rfl⟩
  txf_length := by decide
  txf_frame := fun h => absurd h (by decide)
  att_budget := by decide
  att_reading := by decide
  rbuf_length := by decide
  reading_incomplete := by decide
  done_complete := by decide

theorem test_witness_EveryStepKeepsInvariant :
    Inv { exchanging 2 .held .read .reading (r1.take 4) 1 with reads := [.data (r1.drop 4) 128] } ∧
    ∃ t, step { exchanging 2 .held .read .reading (r1.take 4) 1 with reads := [.data (r1.drop 4) 128] } = .next t :=
  ⟨test_inv_mid_exchange, _, rfl⟩

theorem test_inv_decode :
    Inv { exchanging 4 .free .decode .done (r1.take 8 ++ [0x05#8, 0x05#8]) 1 with
      turns := [.window ⟨.status, 8, [0x05#8]⟩] } where
  params_valid := rfl
  control := rfl
  exchange_runs := fun _ => ⟨_, _, _, _, rfl, rfl⟩
  readFrame_runs := fun h _ => absurd h (by decide)
  txf_length := by decide
  txf_frame := fun h => absurd h (by decide)
  att_budget := by decide
  att_reading := by decide
  rbuf_length := by decide
  reading_incomplete := by decide
  done_complete := by decide

theorem test_witness_WindowTurnActsAsBlock :
    Inv { exchanging 4 .free .decode .done (r1.take 8 ++ [0x05#8, 0x05#8]) 1 with
      turns := [.window ⟨.status, 8, [0x05#8]⟩] } ∧
    ({ exchanging 4 .free .decode .done (r1.take 8 ++ [0x05#8, 0x05#8]) 1 with
      turns := [.window ⟨.status, 8, [0x05#8]⟩] } : State).turns = .window ⟨.status, 8, [0x05#8]⟩ :: [] :=
  ⟨test_inv_decode, rfl⟩

theorem test_witness_AnsweredRequestReleasesLock :
    Inv { reading 2 r1 2 with rphase := .done } ∧
    ∃ t, step { reading 2 r1 2 with rphase := .done } = .next t ∧ t.port.length < 1 :=
  ⟨test_inv_readFrame_done, _, rfl, by decide⟩

theorem test_witness_ParametersNeverChange : ∃ t, step (waiting 2 setBaud) = .next t := ⟨_, rfl⟩

theorem test_witness_OnlyExchangeReachesTheLine :
    ∃ t, exec setBaud { exchanging 2 .held .write .idle [] 0 with writes := [.fail .ioError 3] } = .next t ∧
      t.outbound = setBaudFrame.take 3 := ⟨_, rfl, rfl⟩

theorem test_witness_PureOperationsReadNoState :
    (∃ r, encode (.be16 0xAA00#16) = .request r) ∧ Instr.be16 0xAA00#16 ≠ .readFrame ∧
    Instr.be16 0xAA00#16 ≠ .readStep ∧ ∀ cmd segs, Instr.be16 0xAA00#16 ≠ .exchange cmd segs :=
  ⟨⟨_, rfl⟩, by decide, by decide, by simp⟩

theorem test_witness_PayloadOfNoResultFaults :
    (opened 1).params.valid = true ∧ ({ opened 1 with turns := [.takesPayload] } : State).turns = .takesPayload :: [] ∧
    (opened 1).res = .none ∧ ({ opened 1 with res := .ok (.bytes []) } : State).res ≠ .none := by decide

theorem test_witness_HeldRequestHasNoEffect :
    (({ reading 1 [] 0 with turns := [.issues (requestOf setBaud) 0] } : State).turns =
        .issues (requestOf setBaud) 0 :: [] ∧
      (reading 1 [] 0).params.valid = true ∧ (reading 1 [] 0).isIdle = false ∧
      (reading 1 [] 0).port = requestOf .readFrame :: []) ∧
    ({ opened 1 with turns := [.issues (requestOf setBaud) 1] } : State).isIdle = true := by decide

theorem test_witness_EnvironmentMovesOnlyTransport :
    (opened 1).params.valid = true ∧ ({ opened 1 with turns := [.opens] } : State).turns = .opens :: [] ∧
    ({ opened 1 with turns := [.closes 2] } : State).turns = .closes 2 :: [] ∧
    ({ opened 1 with turns := [.sends [0xAA#8]] } : State).turns = .sends [0xAA#8] :: [] := by decide

theorem test_witness_InvalidInstanceIsRefused :
    (opened 0).params.maxAttempts = 0 ∧ ({ opened 1 with params := ⟨0, 1, 0⟩ } : State).params.chunk = 0 := by decide

end Sys2Proof.Tests
end

section
/-! PROOFS. Requests that select no operation (spec/30_encoding.md R80, R81) and the wire length of a response (R69,
R71). -/

namespace Sys2Proof

/-! ## Arguments of the wrong shape (R81) -/

theorem halfOf_eq_none_iff {n : Nat} : halfOf n = none ↔ 65536 ≤ n := by
  simp [halfOf]

theorem byteOf_eq_none_iff {n : Nat} : byteOf n = none ↔ 256 ≤ n := by
  simp [byteOf]

theorem bytesOf_cons_eq_none_iff {n : Nat} {ns : List Nat} :
    bytesOf (n :: ns) = none ↔ byteOf n = none ∨ bytesOf ns = none := by
  cases hn : byteOf n <;> cases hns : bytesOf ns <;> simp [bytesOf, hn, hns]

/-- A byte sequence is refused exactly for a non-byte element. -/
theorem bytesOf_eq_none_iff {ns : List Nat} : bytesOf ns = none ↔ ∃ n ∈ ns, 256 ≤ n := by
  induction ns with
  | nil => simp [bytesOf]
  | cons n ns ih => simp [bytesOf_cons_eq_none_iff, byteOf_eq_none_iff, ih]

theorem segsOf_cons_eq_none_iff {seg : List Nat} {segs : List (List Nat)} :
    segsOf (seg :: segs) = none ↔ bytesOf seg = none ∨ segsOf segs = none := by
  cases hs : bytesOf seg <;> cases hss : segsOf segs <;> simp [segsOf, hs, hss]

/-- A list of segments is refused exactly for a non-byte element in one of them. -/
theorem segsOf_eq_none_iff {segs : List (List Nat)} :
    segsOf segs = none ↔ ∃ seg ∈ segs, ∃ n ∈ seg, 256 ≤ n := by
  induction segs with
  | nil => simp [segsOf]
  | cons seg segs ih => simp [segsOf_cons_eq_none_iff, bytesOf_eq_none_iff, ih]

/-- Reading a byte sequence keeps its length. -/
theorem bytesOf_length {ns : List Nat} {bs : List Byte} (h : bytesOf ns = some bs) : bs.length = ns.length := by
  induction ns generalizing bs with
  | nil =>
    obtain rfl : [] = bs := by simpa [bytesOf] using h
    rfl
  | cons n ns ih =>
    cases hn : byteOf n with
    | none => simp [bytesOf, hn] at h
    | some b =>
      cases hns : bytesOf ns with
      | none => simp [bytesOf, hn, hns] at h
      | some cs =>
        obtain rfl : b :: cs = bs := by simpa [bytesOf, hn, hns] using h
        simp [ih hns]

theorem withBytes_eq_illegal (op : OpCode) {bytes : List Nat} (f : List Byte → Instr) (h : ∃ n ∈ bytes, 256 ≤ n) :
    withBytes op bytes f = .illegal op := by
  simp [withBytes, bytesOf_eq_none_iff.2 h]

theorem withCommand_eq_illegal (op : OpCode) {cmd : Nat} {segs : List (List Nat)} (f : Half → List (List Byte) → Instr)
    (h : 65536 ≤ cmd ∨ ∃ seg ∈ segs, ∃ n ∈ seg, 256 ≤ n) : withCommand op cmd segs f = .illegal op := by
  rcases withCommand_cases op cmd segs f with hi | ⟨c, ss, hc, hs, -⟩
  · exact hi
  · rcases h with hwide | hseg
    · simp [halfOf_eq_none_iff.2 hwide] at hc
    · simp [segsOf_eq_none_iff.2 hseg] at hs

/-! ## Requests that read as ILLEGAL (R81) -/

section
variable {r : Request}

theorem decodeRequest_unusedCode
    (hop : r.op = 0b0000#4 ∨ r.op = 0b0110#4 ∨ r.op = 0b0111#4 ∨ r.op = 0b1111#4) :
    decodeRequest r = .illegal r.op := by
  rcases hop with h | h | h | h <;> simp [decodeRequest, h]

/-- ENCODE and EXCHANGE. -/
theorem decodeRequest_wrongCommand (hop : r.op = 0b0001#4 ∨ r.op = 0b0101#4)
    (hshape : 65536 ≤ r.cmd ∨ ∃ seg ∈ r.segs, ∃ n ∈ seg, 256 ≤ n) : decodeRequest r = .illegal r.op := by
  rcases hop with h | h <;> simp [decodeRequest, h, withCommand_eq_illegal _ _ hshape]

/-- BE16. -/
theorem decodeRequest_wideValue (hop : r.op = 0b1001#4) (hshape : 65536 ≤ r.cmd) :
    decodeRequest r = .illegal r.op := by
  simp [decodeRequest, hop, halfOf_eq_none_iff.2 hshape]

/-- FRAME_LENGTH. -/
theorem decodeRequest_nonByteSegment (hop : r.op = 0b1010#4) (hshape : ∃ seg ∈ r.segs, ∃ n ∈ seg, 256 ≤ n) :
    decodeRequest r = .illegal r.op := by
  simp [decodeRequest, hop, segsOf_eq_none_iff.2 hshape]

/-- The functions over one byte sequence. -/
theorem decodeRequest_nonByte
    (hop : r.op = 0b1000#4 ∨ r.op = 0b1011#4 ∨ r.op = 0b1100#4 ∨ r.op = 0b1101#4 ∨ r.op = 0b1110#4)
    (hshape : ∃ n ∈ r.bytes, 256 ≤ n) : decodeRequest r = .illegal r.op := by
  rcases hop with h | h | h | h | h <;> simp [decodeRequest, h, withBytes_eq_illegal _ _ hshape]

theorem decodeRequest_readStep (hop : r.op = 0b0100#4) : decodeRequest r = .readStep := by
  simp [decodeRequest, hop]

theorem decodeRequest_expectedTotal (hop : r.op = 0b1100#4) :
    decodeRequest r = withBytes r.op r.bytes .expectedTotal := by
  simp [decodeRequest, hop]

end

namespace Machine

/-! ## What a refused request does -/

/-- A request is accepted only outside a read (R57). -/
theorem not_reading_of_accepts {s : State} {r : Request} {rest : List Request} (ha : Accepts s r rest) :
    s.rphase ≠ .reading := by
  obtain ⟨-, hidle, -, -⟩ := ha
  obtain ⟨-, -, hreader⟩ := (isIdle_iff s).1 hidle
  exact hreader

/-- An operation that ends the block's move with `RES` alone written has answered its request. -/
theorem step_of_answer {s : State} {r : Request} {rest : List Request} (ha : Accepts s r rest) {res : Res}
    (he : exec (decodeRequest r) s = .next (answer res s)) : step s = .next { s with res := res, port := rest } := by
  have hreader := not_reading_of_accepts ha
  obtain ⟨hvalid, hidle, hturns, hport⟩ := ha
  rw [step_port hvalid hturns hreader hport, he, mapNext_next, retireIfEnded, answer_isIdle, if_pos hidle]
  simp [retire, answer, hport]

theorem exec_illegal (op : OpCode) (s : State) :
    exec (.illegal op) s = .next (answer (.err (.illegalOperation op)) s) := rfl

/-- READ_STEP outside a read was issued on the port. -/
theorem exec_readStep_of_not_reading {s : State} (h : s.rphase ≠ .reading) :
    exec .readStep s = .next (answer (.err (.illegalOperation 0b0100#4)) s) :=
  if_neg h

theorem exec_expectedTotal_short {bs : List Byte} (h : bs.length < 3) (s : State) :
    exec (.expectedTotal bs) s = .next (answer (.err (.illegalOperation 0b1100#4)) s) := by
  simp [exec, execExpectedTotal, expectedTotal_short h]

/-- Fewer than three elements, byte or not: EXPECTED_TOTAL refuses them at decoding or in its meaning. -/
theorem exec_shortExpectedTotal {r : Request} (hop : r.op = 0b1100#4) (hlen : r.bytes.length < 3) (s : State) :
    exec (decodeRequest r) s = .next (answer (.err (.illegalOperation r.op)) s) := by
  rw [decodeRequest_expectedTotal hop]
  rcases withBytes_cases r.op r.bytes .expectedTotal with hi | ⟨bs, hbs, hi⟩
  · rw [hi, exec_illegal]
  · rw [hi, exec_expectedTotal_short (by rw [bytesOf_length hbs]; exact hlen), hop]

/-- Settles O8: each refused request reads as ILLEGAL, but for READ_STEP and a short EXPECTED_TOTAL, whose meanings
answer the same. -/
theorem illegalRequestsChangeOnlyRes : Obligations.IllegalRequestsChangeOnlyRes := by
  intro s r rest ha hrefused
  apply step_of_answer ha
  have of_illegal (h : decodeRequest r = .illegal r.op) :
      exec (decodeRequest r) s = .next (answer (.err (.illegalOperation r.op)) s) := by
    rw [h, exec_illegal]
  rcases hrefused with h | h | h | h | hstep | ⟨hop, hshape⟩ | ⟨hop, hshape⟩ | ⟨hop, hshape⟩ | ⟨hop, hshape⟩ |
    ⟨hop, hlen⟩
  · exact of_illegal (decodeRequest_unusedCode (.inl h))
  · exact of_illegal (decodeRequest_unusedCode (.inr (.inl h)))
  · exact of_illegal (decodeRequest_unusedCode (.inr (.inr (.inl h))))
  · exact of_illegal (decodeRequest_unusedCode (.inr (.inr (.inr h))))
  · rw [decodeRequest_readStep hstep, exec_readStep_of_not_reading (not_reading_of_accepts ha), hstep]
  · exact of_illegal (decodeRequest_wrongCommand hop hshape)
  · exact of_illegal (decodeRequest_wideValue hop hshape)
  · exact of_illegal (decodeRequest_nonByteSegment hop hshape)
  · exact of_illegal (decodeRequest_nonByte hop hshape)
  · exact exec_shortExpectedTotal hop hlen s

/-! ## The wire length of a response (R69, R71) -/

/-- Stuffing adds one byte for each `0xAA`. -/
theorem stuff_length (bs : List Byte) : (stuff bs).length = bs.length + bs.count 0xAA#8 := by
  induction bs with
  | nil => rfl
  | cons b bs ih =>
    by_cases hb : b = 0xAA#8
    · subst hb
      simp only [stuff_esc, List.length_cons, List.count_cons_self, ih]
      omega
    · simp only [stuff_plain hb, List.length_cons, List.count_cons_of_ne hb, ih]
      omega

/-- Stuffing adds no `0xAA`. -/
theorem stuff_count_esc (bs : List Byte) : (stuff bs).count 0xAA#8 = bs.count 0xAA#8 := by
  induction bs with
  | nil => rfl
  | cons b bs ih =>
    by_cases hb : b = 0xAA#8
    · subst hb
      simp [stuff_esc, ih]
    · simp [stuff_plain hb, List.count_cons_of_ne hb, ih]

theorem responseWire_eq (body : List Byte) :
    responseWire body =
      0xAA#8 :: 0xBB#8 :: BitVec.ofNat 8 body.length :: stuff (body ++ [xorfold body]) := rfl

theorem responseWire_length (body : List Byte) :
    (responseWire body).length = body.length + 4 + (body ++ [xorfold body]).count 0xAA#8 := by
  simp only [responseWire_eq, List.length_cons, stuff_length, List.length_append, List.length_nil]
  omega

/-- A length byte stands for the length it was made from. -/
theorem lengthByte_eq_iff {n m : Nat} (hn : n ≤ 255) (hm : m ≤ 255) :
    BitVec.ofNat 8 n = BitVec.ofNat 8 m ↔ n = m := by
  rw [← BitVec.toNat_inj, BitVec.toNat_ofNat, BitVec.toNat_ofNat]
  omega

/-- The reader counts a response to its end, and one byte too many where its length byte is `0xAA` (R118, R119). -/
theorem expectedTotal_responseWire {body : List Byte} (hlen : body.length ≤ 255) :
    expectedTotal (responseWire body) =
      some ((responseWire body).length + if body.length = 0xAA then 1 else 0) := by
  have hl : (BitVec.ofNat 8 body.length).toNat = body.length := by
    rw [BitVec.toNat_ofNat]
    omega
  have hesc : (BitVec.ofNat 8 body.length == 0xAA#8) = decide (body.length = 0xAA) := by
    rw [beq_eq_decide]
    exact decide_eq_decide.2 (lengthByte_eq_iff hlen (by decide))
  rw [responseWire_length, responseWire_eq, expectedTotal_cons3, hl, List.count_cons, stuff_count_esc, hesc]
  simp only [decide_eq_true_eq, Nat.add_assoc]

/-- Settles O18, by counting the stuffed pairs. -/
theorem wellFormedResponseLength : Obligations.WellFormedResponseLength := by
  intro body _ hlen
  refine ⟨responseWire_length body, fun hne => ?_⟩
  rw [expectedTotal_responseWire hlen, if_neg hne, Nat.add_zero]

end Machine

end Sys2Proof
end

section
/-! PROOFS. What stands at each offset of an encoded frame (spec/40_encoder.md R103, R106). -/

namespace Sys2Proof.Machine

/-- The slice between a prefix and a suffix. -/
theorem slice_append_middle {xs ys zs : List Byte} {lo hi : Nat} (hlo : xs.length = lo) (hhi : lo + ys.length = hi) :
    slice (xs ++ ys ++ zs) lo hi = ys := by
  subst hlo hhi
  rw [slice, ← List.length_append, List.take_left, List.drop_left]

/-- A sequence followed by its own xorfold folds to zero. -/
theorem xorfold_append_checksum (bs : List Byte) : xorfold (bs ++ [xorfold bs]) = 0x00#8 := by
  simp

/-! ## A frame around a body (R63) -/

section
variable (l : Nat) (body : List Byte)

theorem frameAround_take_preamble : (frameAround l body).take 2 = [0xAA#8, 0xBB#8] := rfl

theorem frameAround_lengthByte : (frameAround l body)[2]? = some (BitVec.ofNat 8 l) := rfl

theorem frameAround_drop_header : (frameAround l body).drop 3 = body ++ [xorfold body] := rfl

theorem slice_frameAround_body : slice (frameAround l body) 3 (3 + body.length) = body :=
  slice_append_middle rfl rfl

theorem frameAround_checksum : (frameAround l body)[3 + body.length]? = some (xorfold body) := by
  rw [← List.getElem?_drop, frameAround_drop_header, List.getElem?_concat_length]

end

/-! ## A request's frame (R103) -/

section
variable (l : Nat) (cmd : Half) (segs : List (List Byte))

theorem requestFrame_rsv : (frameAround l (requestBody cmd segs))[3]? = some 0x00#8 := rfl

theorem slice_requestFrame_deviceId : slice (frameAround l (requestBody cmd segs)) 4 6 = [0x00#8, 0x00#8] := rfl

theorem slice_requestFrame_cmd : slice (frameAround l (requestBody cmd segs)) 6 8 = be16 cmd := rfl

theorem slice_requestFrame_payload :
    slice (frameAround l (requestBody cmd segs)) 8 (8 + segs.flatten.length) = segs.flatten := by
  have hf : frameAround l (requestBody cmd segs) =
      ([0xAA#8, 0xBB#8, BitVec.ofNat 8 l, 0x00#8, 0x00#8, 0x00#8] ++ be16 cmd) ++ segs.flatten ++
        [xorfold (requestBody cmd segs)] := by
    rw [← payload_eq_flatten]
    rfl
  rw [hf]
  exact slice_append_middle rfl rfl

/-- ENCODE's answer when the payload fits (R103). -/
theorem exec_encode_fits (s : State) (h : segs.flatten.length ≤ 250) :
    exec (.encode cmd segs) s =
      .next { s with res := .ok (.bytes (frameAround (5 + segs.flatten.length) (requestBody cmd segs))) } := by
  rw [← payloadLength_eq] at h ⊢
  simp only [exec, execEncode, encodeFrame_ok cmd segs h, Res.ofExcept, answer]

end

/-- Settles O14: the laws of any frame around a body, at a body of `5 + P` bytes. -/
theorem encodedFrameLaws : Obligations.EncodedFrameLaws := by
  intro cmd segs s hfits
  have hend : 8 + segs.flatten.length = 3 + (requestBody cmd segs).length := by
    rw [requestBody_length, payloadLength_eq]
    omega
  refine ⟨_, exec_encode_fits cmd segs s hfits, frameAround_take_preamble _ _, ?_, requestFrame_rsv _ cmd segs,
    slice_requestFrame_deviceId _ cmd segs, slice_requestFrame_cmd _ cmd segs, slice_requestFrame_payload _ cmd segs,
    ?_, ?_⟩
  · have hbyte : 5 + segs.flatten.length < 2 ^ 8 := by omega
    rw [frameAround_lengthByte, Option.map_some, BitVec.toNat_ofNat, Nat.mod_eq_of_lt hbyte]
  · rw [hend, slice_frameAround_body, frameAround_checksum]
  · rw [frameAround_drop_header, xorfold_append_checksum]

end Sys2Proof.Machine
end

section
/-! PROOFS. Where the reader finds a response complete (spec/41_reader.md R118). -/

namespace Sys2Proof.Machine

/-- A nonempty sequence with another last byte does not consist of one byte alone. -/
theorem count_lt_length_of_getLast?_ne {bs : List Byte} {b : Byte} (hne : bs ≠ []) (hlast : bs.getLast? ≠ some b) :
    bs.count b < bs.length :=
  List.count_lt_length_iff.2
    ⟨bs.getLast hne, List.getLast_mem hne, fun h => hlast (by rw [List.getLast?_eq_some_getLast hne, h])⟩

theorem getLast?_cons_ne {b c : Byte} {bs : List Byte} (hc : c ≠ b) (hlast : bs.getLast? ≠ some b) :
    (c :: bs).getLast? ≠ some b := by
  cases hl : bs.getLast? with
  | none => simpa [List.getLast?_cons, hl] using hc
  | some d => simpa [List.getLast?_cons, hl] using hlast

/-- Stuffed bytes never end in `0xAA`: behind each stands its `0x00`. -/
theorem stuff_getLast?_ne_esc (bs : List Byte) : (stuff bs).getLast? ≠ some 0xAA#8 := by
  induction bs with
  | nil => simp
  | cons b bs ih =>
    by_cases hb : b = 0xAA#8
    · subst hb
      rw [stuff_esc, List.getLast?_cons_cons]
      exact getLast?_cons_ne (by decide) ih
    · rw [stuff_plain hb]
      exact getLast?_cons_ne hb ih

/-- No cut through the bytes behind the length byte is complete, where the whole is counted to its end and does not end
in `0xAA`: what is cut off holds fewer `0xAA` than bytes, so the count falls by less than the length. -/
theorem complete_cons3_take {a b l : Byte} {bs : List Byte} {n : Nat} (hn : n < bs.length)
    (hlast : bs.getLast? ≠ some 0xAA#8)
    (htotal : expectedTotal (a :: b :: l :: bs) = some (a :: b :: l :: bs).length) :
    complete (a :: b :: l :: bs.take n) = false := by
  have hcut : (bs.drop n).count 0xAA#8 < (bs.drop n).length :=
    count_lt_length_of_getLast?_ne (List.drop_eq_nil_iff.not.2 hn.not_ge)
      (by rwa [List.getLast?_drop, if_neg hn.not_ge])
  have hsplit : (bs.take n).count 0xAA#8 + (bs.drop n).count 0xAA#8 = bs.count 0xAA#8 := by
    rw [← List.count_append, List.take_append_drop]
  rw [expectedTotal_cons3, Option.some_inj] at htotal
  rw [complete_cons3, decide_eq_false_iff_not]
  simp only [List.count_cons, List.length_cons, List.length_drop, List.length_take] at *
  omega

/-- A sequence the reader counts to its end is complete. -/
theorem complete_of_expectedTotal_eq_length {bs : List Byte} (h : expectedTotal bs = some bs.length) :
    complete bs = true := by
  simp [complete, h]

/-- Settles O19: the reader counts the wire to its end, and a stuffed tail does not end in `0xAA`. -/
theorem wellFormedResponseCompletesAtItsEnd : Obligations.WellFormedResponseCompletesAtItsEnd := by
  intro body hmin hmax hne
  have htotal := (wellFormedResponseLength body hmin hmax).2 hne
  refine ⟨fun k hk => ?_, complete_of_expectedTotal_eq_length htotal, htotal⟩
  rw [responseWire_eq] at hk htotal ⊢
  match k with
  | 0 | 1 | 2 => exact complete_short (by simp)
  | n + 3 => exact complete_cons3_take (by simpa using hk) (stuff_getLast?_ne_esc _) htotal

end Sys2Proof.Machine
end

section
/-! PROOFS. What stuffing, destuffing and the checksum test leave of a sequence (spec/42_decoder.md R125, R128). -/

namespace Sys2Proof.Machine

/-- A first byte stays as one behind any byte but `0xAA` does (R125, decision D5). -/
theorem destuff_eq_destuffAfter_zero (bs : List Byte) : destuff bs = destuffAfter 0x00#8 bs := by
  cases bs with
  | nil => rfl
  | cons b bs => exact (destuffAfter_plain (fun h => absurd h.2 (by decide)) bs).symm

/-- Destuffing removes only bytes that do not change the fold. -/
theorem xorfold_destuffAfter (prev : Byte) (bs : List Byte) : xorfold (destuffAfter prev bs) = xorfold bs := by
  induction bs generalizing prev with
  | nil => rfl
  | cons b bs ih =>
    by_cases hb : b = 0x00#8 ∧ prev = 0xAA#8
    · obtain ⟨rfl, rfl⟩ := hb
      rw [destuffAfter_stuffed, ih, xorfold_cons, BitVec.zero_xor]
    · rw [destuffAfter_plain hb, xorfold_cons, xorfold_cons, ih]

theorem xorfold_destuff (bs : List Byte) : xorfold (destuff bs) = xorfold bs := by
  rw [destuff_eq_destuffAfter_zero, xorfold_destuffAfter]

/-- The checksum test of DECODE compares the last byte with the fold of the others; it says that they cancel. -/
theorem checksum_passes_iff {r : List Byte} (hne : r ≠ []) :
    xorfold r.dropLast = r.getLastD 0x00#8 ↔ xorfold r = 0x00#8 := by
  obtain ⟨bs, c, rfl⟩ := (List.eq_nil_or_concat' r).resolve_left hne
  rw [List.dropLast_concat, List.getLastD_concat, xorfold_append, xorfold_cons, xorfold_nil, BitVec.xor_zero,
    BitVec.xor_eq_zero_iff]

/-- Settles O24: the last byte cancels the fold of the others, and destuffing removes zero bytes only. -/
theorem checksumVerdictSurvivesDestuffing : Obligations.ChecksumVerdictSurvivesDestuffing :=
  fun r hne => ⟨checksum_passes_iff hne, xorfold_destuff r⟩

/-- Behind any byte but `0xAA`, each stuffed pair gives its `0xAA` back, and a `0x00` of the sequence stays. -/
theorem destuffAfter_stuff {prev : Byte} (hprev : prev ≠ 0xAA#8) (bs : List Byte) :
    destuffAfter prev (stuff bs) = bs := by
  induction bs generalizing prev with
  | nil => rfl
  | cons b bs ih =>
    have hstays : ¬ (b = 0x00#8 ∧ prev = 0xAA#8) := fun h => hprev h.2
    by_cases hb : b = 0xAA#8
    · subst hb
      rw [stuff_esc, destuffAfter_plain hstays, destuffAfter_stuffed, ih (by decide)]
    · rw [stuff_plain hb, destuffAfter_plain hstays, ih hb]

theorem destuff_stuff (bs : List Byte) : destuff (stuff bs) = bs := by
  rw [destuff_eq_destuffAfter_zero, destuffAfter_stuff (by decide)]

theorem xorfold_stuff (bs : List Byte) : xorfold (stuff bs) = xorfold bs := by
  rw [← xorfold_destuff, destuff_stuff]

/-- A first byte stands first in the stuffed sequence, be it `0xAA` or not. -/
theorem stuff_head? (bs : List Byte) : (stuff bs).head? = bs.head? := by
  cases bs with
  | nil => rfl
  | cons b bs =>
    by_cases hb : b = 0xAA#8
    · rw [hb, stuff_esc]; rfl
    · rw [stuff_plain hb]; rfl

/-- Bytes without `0xAA` stand unchanged in the stuffed sequence. -/
theorem stuff_append_plain {bs : List Byte} (h : 0xAA#8 ∉ bs) (cs : List Byte) : stuff (bs ++ cs) = bs ++ stuff cs := by
  induction bs with
  | nil => rfl
  | cons b bs ih =>
    obtain ⟨hb, hbs⟩ := not_or.1 (List.mem_cons.not.1 h)
    rw [List.cons_append, stuff_plain (Ne.symm hb), ih hbs, List.cons_append]

end Sys2Proof.Machine
end

section
/-! PROOFS. DECODE of a well-formed response (spec/42_decoder.md R126, R131). -/

namespace Sys2Proof.Machine

/-- DECODE answers what the decoder computes, in `RES` alone (R134). -/
theorem exec_decode (raw : List Byte) (s : State) :
    exec (.decode raw) s = .next { s with res := .ofExcept .bytes (decodeFrame raw) } := rfl

/-- Behind a preamble the byte at offset 8 decides (step 2 of R126). -/
theorem decodeFrame_of_status {status : Byte} {r : List Byte} (l : Byte) (h : r[5]? = some status) :
    decodeFrame (0xAA#8 :: 0xBB#8 :: l :: r) =
      if status = 0x00#8 then checkSum r else .error (.deviceStatusError status) := by
  have h8 : (0xAA#8 :: 0xBB#8 :: l :: r)[8]? = some status := h
  rw [decodeFrame, if_pos (by rfl)]
  simp only [h8]
  rfl

/-- Step 4 of R126 lets pass what folds to zero (R128). -/
theorem checkSum_of_xorfold_zero {r : List Byte} (hne : r ≠ []) (h : xorfold r = 0x00#8) :
    checkSum r = extractPayload r :=
  if_pos ((checksum_passes_iff hne).2 h)

/-- Of what destuffs to six bytes, data and a checksum, the data is left (steps 5 and 6 of R126). -/
theorem extractPayload_of_destuff {r hdr data : List Byte} {c : Byte} (hhdr : hdr.length = 6)
    (h : destuff r = hdr ++ data ++ [c]) : extractPayload r = .ok data := by
  have hlen : (hdr ++ data ++ [c]).length = data.length + 7 := by
    simp only [List.length_append, List.length_singleton, hhdr]
    omega
  rw [extractPayload, h, if_neg (by omega), slice_append_middle hhdr (by omega)]

/-- A well-formed response balances its checksum, so DECODE takes the data out of it wherever it finds a zero byte at
offset 8. -/
theorem decodeFrame_responseWire {hdr data : List Byte} (hhdr : hdr.length = 6)
    (hstatus : (stuff (hdr ++ data ++ [xorfold (hdr ++ data)]))[5]? = some 0x00#8) :
    decodeFrame (responseWire (hdr ++ data)) = .ok data := by
  have hne : stuff (hdr ++ data ++ [xorfold (hdr ++ data)]) ≠ [] := by
    intro h
    rw [h] at hstatus
    simp at hstatus
  have hfold : xorfold (stuff (hdr ++ data ++ [xorfold (hdr ++ data)])) = 0x00#8 := by
    rw [xorfold_stuff, xorfold_append_checksum]
  rw [responseWire_eq, decodeFrame_of_status _ hstatus, if_pos rfl, checkSum_of_xorfold_zero hne hfold,
    extractPayload_of_destuff hhdr (destuff_stuff _)]

/-- The byte behind five bytes without `0xAA` keeps its place in the stuffed sequence (R130). -/
theorem stuff_getElem?_status {pre rest : List Byte} {status : Byte} (hlen : pre.length = 5) (h : 0xAA#8 ∉ pre) :
    (stuff (pre ++ status :: rest))[5]? = some status := by
  rw [stuff_append_plain h, ← hlen, List.getElem?_append_right (Nat.le_refl _), Nat.sub_self, ← List.head?_eq_getElem?,
    stuff_head?, List.head?_cons]

/-- Settles O25: without a stuffed pair before it the status stands at offset 8, and behind a zero status the wire
destuffs to its body and checksum. -/
theorem wellFormedResponseDecodes : Obligations.WellFormedResponseDecodes := by
  intro rsv devHi devLo cmdHi cmdLo status data s _ hrsv hdevHi hdevLo hcmdHi hcmdLo
  have hplain : 0xAA#8 ∉ [rsv, devHi, devLo, cmdHi, cmdLo] := by
    simp [hrsv.symm, hdevHi.symm, hdevLo.symm, hcmdHi.symm, hcmdLo.symm]
  have hstatus (rest : List Byte) :
      (stuff ([rsv, devHi, devLo, cmdHi, cmdLo, status] ++ data ++ rest))[5]? = some status :=
    stuff_getElem?_status rfl hplain
  rw [exec_decode]
  by_cases hok : status = 0x00#8
  · subst hok
    rw [decodeFrame_responseWire rfl (hstatus _), if_neg (not_not_intro rfl)]
    rfl
  · rw [responseWire_eq, decodeFrame_of_status _ (hstatus _), if_neg hok, if_pos hok]
    rfl

end Sys2Proof.Machine
end

section
/-! PROOFS. The state after power-on (spec/70_reset_and_hazards.md R190). -/

namespace Sys2Proof.Machine

/-- Power-on gives each register the reset column of R20 and closes the transport, whatever the parameters of the
instance (R190). -/
theorem powerOn_resetColumn (p : Params) :
    (State.powerOn p).lock = .free ∧ (State.powerOn p).xphase = .idle ∧ (State.powerOn p).rphase = .idle ∧
    (State.powerOn p).rbuf = [] ∧ (State.powerOn p).txf = [] ∧ (State.powerOn p).att = 0 ∧
    (State.powerOn p).res = .none ∧ (State.powerOn p).tstate = .closed := by
  obtain ⟨hxphase, hlock, -⟩ := (isIdle_iff (State.powerOn p)).1 (powerOn_isIdle p)
  exact ⟨hlock, hxphase, rfl, rfl, rfl, rfl, rfl, rfl⟩

/-- Settles O1: reset is the power-on of the instance with the parameters of R7. -/
theorem resetLeavesPowerOnValues : Obligations.ResetLeavesPowerOnValues :=
  powerOn_resetColumn Config.params

end Sys2Proof.Machine
end

section
/-! PROOFS. The decoder reads every well-formed instruction back from what the encoder writes for it
(spec/30_encoding.md R80, R81, R82). -/

namespace Sys2Proof

/-! ## Argument lines -/

@[simp] theorem halfOf_toNat (v : Half) : halfOf v.toNat = some v := by
  simp [halfOf, v.isLt]

@[simp] theorem byteOf_toNat (b : Byte) : byteOf b.toNat = some b := by
  simp [byteOf, b.isLt]

@[simp] theorem bytesOf_map_toNat (bs : List Byte) : bytesOf (bs.map BitVec.toNat) = some bs := by
  induction bs with
  | nil => rfl
  | cons b bs ih => simp [bytesOf, ih]

@[simp] theorem segsOf_map_toNat (segs : List (List Byte)) :
    segsOf (segs.map (List.map BitVec.toNat)) = some segs := by
  induction segs with
  | nil => rfl
  | cons seg segs ih => simp [segsOf, ih]

@[simp] theorem withBytes_map_toNat (op : OpCode) (bs : List Byte) (f : List Byte → Instr) :
    withBytes op (bs.map BitVec.toNat) f = f bs := by
  simp [withBytes]

@[simp] theorem withCommand_map_toNat (op : OpCode) (cmd : Half) (segs : List (List Byte))
    (f : Half → List (List Byte) → Instr) :
    withCommand op cmd.toNat (segs.map (List.map BitVec.toNat)) f = f cmd segs := by
  simp [withCommand]

/-- A request whose arguments all have the wrong shape is illegal whichever of them its code reads; READ_FRAME reads
none, and READ_STEP has a row of its own. -/
theorem decodeRequest_wrongShapes {r : Request} (hframe : r.op ≠ 0b0011#4) (hstep : r.op ≠ 0b0100#4)
    (hcmd : 65536 ≤ r.cmd) (hsegs : ∃ seg ∈ r.segs, ∃ n ∈ seg, 256 ≤ n) (hbytes : ∃ n ∈ r.bytes, 256 ≤ n) :
    decodeRequest r = .illegal r.op := by
  unfold decodeRequest
  split
  case h_3 hop => exact absurd (BitVec.eq_of_toNat_eq hop) hframe
  case h_4 hop => exact absurd (BitVec.eq_of_toNat_eq hop) hstep
  case h_13 => rfl
  all_goals simp only [withBytes_eq_illegal _ _ hbytes, withCommand_eq_illegal _ _ (.inl hcmd),
    halfOf_eq_none_iff.2 hcmd, segsOf_eq_none_iff.2 hsegs]

/-! ## Windows -/

/-- The two bytes of a 16-bit value, put together again. -/
theorem extractLsb'_append_bytes (v : Half) : v.extractLsb' 8 8 ++ v.extractLsb' 0 8 = v := by
  rw [BitVec.extractLsb'_append_extractLsb'_eq_extractLsb' (by rfl), BitVec.extractLsb'_eq_self]

/-- The mask of W_REQ_HEADER leaves the length byte and the command code free (R82). -/
theorem wireReqHeader_fits (l c1 c0 : Byte) :
    wireReqHeader.fits [0xAA#8, 0xBB#8, l, 0x00#8, 0x00#8, 0x00#8, c1, c0] = true := by
  simp [wireReqHeader, WirePattern.fits]

theorem wireStatusOk_fits (status : Byte) : wireStatusOk.fits [status] = decide (status = 0x00#8) := by
  have hmask : status &&& 0xFF#8 = status := BitVec.and_allOnes
  simp [wireStatusOk, WirePattern.fits, hmask]

/-! ## The round trip -/

/-- Settles O6: the argument lines of a request read back, an ILLEGAL request is wrong in every line, and a window
shows the pattern it was made for. -/
theorem encodedInstructionDecodes : Obligations.EncodedInstructionDecodes := by
  intro i hwf
  cases i with
  | encode | exchange | be16 | frameLength => simp [encode, commandRequest, decode, decodeRequest]
  | decode | xorfold | stuffCount | expectedTotal | complete | destuff =>
    simp [encode, bytesRequest, decode, decodeRequest]
  | readFrame | readStep | wPreamble | wEscByte | wEscPair | wStatusOk => rfl
  | illegal op =>
    obtain ⟨hframe, hstep⟩ : op ≠ 0b0011#4 ∧ op ≠ 0b0100#4 := by simpa [wellFormed] using hwf
    exact congrArg some (decodeRequest_wrongShapes (r := ⟨op, 65536, [[256]], [256]⟩) hframe hstep
      (Nat.le_refl _) ⟨[256], .head _, 256, .head _, Nat.le_refl _⟩ ⟨256, .head _, Nat.le_refl _⟩)
  | wReqHeader l cmd => simp [encode, decode, decodeWindow, wireReqHeader_fits, extractLsb'_append_bytes]
  | wStatusErr status =>
    have hstatus : status ≠ 0x00#8 := by simpa [wellFormed] using hwf
    simp [encode, decode, decodeWindow, wireStatusOk_fits, hstatus]

/-- Settles O7: one word of each row is read as its instruction. -/
theorem tableWordsDecode : Obligations.TableWordsDecode := by
  refine ⟨⟨?_, ?_, ?_, ?_, ?_, ?_, ?_, ?_, ?_, ?_, ?_, ?_, ?_⟩, ?_, ?_, ?_, ?_, ?_, ?_⟩ <;> decide

end Sys2Proof
end

section
/-! PROOFS. What each family of instructions can do in every state: the operations that write `RES` alone
(spec/30_encoding.md R80, R81), the reader, EXCHANGE and the wire patterns. -/

namespace Sys2Proof.Machine

/-! ## The operations that write `RES` alone -/

/-- What a pure operation, ENCODE, DECODE or ILLEGAL writes to `RES`; none for the operations of the transport and for
the wire patterns. -/
def pureResult : Instr → Option Res
  | .encode cmd segs => some (.ofExcept .bytes (encodeFrame cmd segs))
  | .decode raw => some (.ofExcept .bytes (decodeFrame raw))
  | .xorfold bs => some (.ok (.bytes [xorfold bs]))
  | .be16 v => some (.ok (.bytes (be16 v)))
  | .frameLength segs => some (.ofExcept .natural (frameLength segs))
  | .stuffCount bs => some (.ok (.natural (stuffCount bs)))
  | .expectedTotal bs =>
    some (((expectedTotal bs).map fun n => Res.ok (.natural n)).getD (.err (.illegalOperation 0b1100#4)))
  | .complete bs => some (.ok (.boolean (complete bs)))
  | .destuff bs => some (.ok (.bytes (destuff bs)))
  | .illegal op => some (.err (.illegalOperation op))
  | .readFrame | .readStep | .exchange _ _ | .wPreamble _ _ | .wReqHeader _ _ | .wEscByte | .wEscPair | .wStatusOk
  | .wStatusErr _ => none

/-- `pureResult` is the model's own: it is what `exec` writes, whatever the state. -/
theorem exec_of_pureResult {i : Instr} {r : Res} (h : pureResult i = some r) (s : State) :
    exec i s = .next (answer r s) := by
  cases i with
  | readFrame | readStep | exchange | wPreamble | wReqHeader | wEscByte | wEscPair | wStatusOk | wStatusErr =>
    simp [pureResult] at h
  | expectedTotal bs =>
    obtain rfl := Option.some_inj.1 h
    cases hb : expectedTotal bs <;> simp [exec, execExpectedTotal, hb]
  | _ =>
    obtain rfl := Option.some_inj.1 h
    rfl

theorem ofExcept_ne_none {α : Type} (f : α → Value) (e : Except Error α) : Res.ofExcept f e ≠ .none := by
  cases e <;> simp [Res.ofExcept]

/-- A pure operation ends with a result or an error. -/
theorem pureResult_ne_none {i : Instr} {r : Res} (h : pureResult i = some r) : r ≠ .none := by
  cases i with
  | readFrame | readStep | exchange | wPreamble | wReqHeader | wEscByte | wEscPair | wStatusOk | wStatusErr =>
    simp [pureResult] at h
  | encode | decode | frameLength =>
    obtain rfl := Option.some_inj.1 h
    exact ofExcept_ne_none _ _
  | expectedTotal bs =>
    obtain rfl := Option.some_inj.1 h
    cases hb : expectedTotal bs <;> simp
  | _ =>
    obtain rfl := Option.some_inj.1 h
    simp

/-! ## The operations of the transport -/

theorem exec_readFrame_done {s : State} (hl : s.lock = .held) (hr : s.rphase = .done) :
    exec .readFrame s = .next (returnOk (.bytes s.rbuf) s) :=
  if_pos ⟨hl, hr⟩

theorem exec_readFrame_start {s : State} (h : ¬ (s.lock = .held ∧ s.rphase = .done)) :
    exec .readFrame s = .next (beginRead { s with lock := .held }) :=
  if_neg h

theorem exec_readStep_reading {s : State} (h : s.rphase = .reading) : exec .readStep s = .next (readIteration s) :=
  if_pos h

section
variable (cmd : Half) (segs : List (List Byte)) {s : State}

theorem exec_exchange_idle (h : s.xphase = .idle) :
    exec (.exchange cmd segs) s = .next { s with xphase := .encode } := by
  simp [exec, execExchange, h]

theorem exec_exchange_encode (h : s.xphase = .encode) :
    exec (.exchange cmd segs) s = .next (exchangeEncode cmd segs s) := by
  simp [exec, execExchange, h]

theorem exec_exchange_write (h : s.xphase = .write) : exec (.exchange cmd segs) s = .next (exchangeWrite s) := by
  simp [exec, execExchange, h]

theorem exec_exchange_read (h : s.xphase = .read) : exec (.exchange cmd segs) s = .next (exchangeRead s) := by
  simp [exec, execExchange, h]

theorem exec_exchange_decode (h : s.xphase = .decode) : exec (.exchange cmd segs) s = .next (exchangeDecode s) := by
  simp [exec, execExchange, h]

/-- An exchange encodes under the rule of ENCODE: the frame goes to `TXF` and `LOCK` is taken. -/
theorem exchangeEncode_ok {f : List Byte} (hf : encodeFrame cmd segs = .ok f) (s : State) :
    exchangeEncode cmd segs s = { s with txf := f, lock := .held, xphase := .write } := by
  simp [exchangeEncode, hf]

theorem exchangeEncode_error {e : Error} (he : encodeFrame cmd segs = .error e) (s : State) :
    exchangeEncode cmd segs s = raise e s := by
  simp [exchangeEncode, he]

end

/-- The decode of an exchange ends it, with what DECODE of `RBUF` writes. -/
theorem exchangeDecode_eq (s : State) :
    exchangeDecode s = endOperation (.ofExcept .bytes (decodeFrame s.rbuf)) s := by
  unfold exchangeDecode
  cases decodeFrame s.rbuf <;> rfl

theorem exchangeRead_done {s : State} (h : s.rphase = .done) :
    exchangeRead s = { s with lock := .free, xphase := .decode } := by
  simp [exchangeRead, h]

/-- Everything the write of an exchange can do: the read starts, or an error is raised. -/
theorem exchangeWrite_cases (s : State) :
    ((txWrite s.txf s).1 = .ok ∧ exchangeWrite s = beginRead { (txWrite s.txf s).2 with xphase := .read }) ∨
    (∃ reason, (txWrite s.txf s).1 = .fail reason ∧
      exchangeWrite s = raise (.transportError reason) (txWrite s.txf s).2) := by
  unfold exchangeWrite
  cases h : (txWrite s.txf s).1 with
  | ok => exact .inl ⟨rfl, rfl⟩
  | fail reason => exact .inr ⟨reason, rfl, rfl⟩

/-- Everything the read phase of an exchange can do. -/
theorem exchangeRead_cases (s : State) :
    (s.rphase = .done ∧ exchangeRead s = { s with lock := .free, xphase := .decode }) ∨
    (s.rphase = .reading ∧ exchangeRead s = readIteration s) ∨
    (s.rphase ≠ .done ∧ s.rphase ≠ .reading ∧ exchangeRead s = beginRead s) := by
  unfold exchangeRead
  cases s.rphase with
  | done => exact .inl ⟨rfl, rfl⟩
  | reading => exact .inr (.inl ⟨rfl, rfl⟩)
  | idle => exact .inr (.inr ⟨by simp, by simp, rfl⟩)
  | failed => exact .inr (.inr ⟨by simp, by simp, rfl⟩)

/-! ## Statements about single operations -/

/-- Settles O9. -/
theorem illegalCompletes : Obligations.IllegalCompletes :=
  exec_illegal

/-- Settles O54: `pureResult` gives the value that `exec` writes. -/
theorem pureOperationsReadNoState : Obligations.PureOperationsReadNoState := by
  rintro i ⟨r, hr⟩ hframe hstep hexchange
  have hpure : ∃ v, pureResult i = some v := by
    cases i with
    | readFrame => exact absurd rfl hframe
    | readStep => exact absurd rfl hstep
    | exchange cmd segs => exact absurd rfl (hexchange cmd segs)
    | wPreamble | wReqHeader | wEscByte | wEscPair | wStatusOk | wStatusErr => simp [encode] at hr
    | _ => exact ⟨_, rfl⟩
  obtain ⟨v, hv⟩ := hpure
  exact ⟨v, pureResult_ne_none hv, exec_of_pureResult hv⟩

/-- Settles O59. -/
theorem resultCodesFollowTable : Obligations.ResultCodesFollowTable :=
  ⟨fun _ => rfl, fun _ => rfl, fun _ _ => rfl, fun _ => rfl, fun _ _ => rfl, fun _ => rfl, fun _ => rfl, fun _ => rfl,
    fun _ => rfl⟩

end Sys2Proof.Machine
end

section
/-! PROOFS. Every step keeps the invariant: what the reader keeps, what a block's move leaves, and everything a step can
do (spec/10_state.md R20, R24; spec/41_reader.md R114; spec/43_exchange.md R141). -/

namespace Sys2Proof.Machine

/-! ## The legal control states (R24) -/

theorem legalControl_free_idle_iff {r : RPhase} : legalControl .free .idle r = true ↔ r ≠ .reading := by
  cases r <;> simp [legalControl]

theorem legalControl_encode_iff {l : Lock} {r : RPhase} :
    legalControl l .encode r = true ↔ l = .free ∧ r ≠ .reading := by
  cases l <;> cases r <;> simp [legalControl]

theorem legalControl_write_iff {l : Lock} {r : RPhase} :
    legalControl l .write r = true ↔ l = .held ∧ r ≠ .reading := by
  cases l <;> cases r <;> simp [legalControl]

theorem legalControl_read_iff {l : Lock} {r : RPhase} :
    legalControl l .read r = true ↔ l = .held ∧ (r = .reading ∨ r = .done) := by
  cases l <;> cases r <;> simp [legalControl]

/-- In `X_DECODE` the read is over and `LOCK` given back. -/
theorem legalControl_decode_iff {l : Lock} {r : RPhase} :
    legalControl l .decode r = true ↔ l = .free ∧ r = .done := by
  cases l <;> cases r <;> simp [legalControl]

/-- The reader reads under `LOCK` only, for a READ_FRAME or in `X_READ`. -/
theorem legalControl_reading_iff {l : Lock} {x : XPhase} :
    legalControl l x .reading = true ↔ l = .held ∧ (x = .idle ∨ x = .read) := by
  cases l <;> cases x <;> simp [legalControl]

theorem legalControl_done_of_reading {l : Lock} {x : XPhase} (h : legalControl l x .reading = true) :
    legalControl l x .done = true := by
  obtain ⟨rfl, rfl | rfl⟩ := legalControl_reading_iff.1 h <;> rfl

/-! ## The reader's part of the invariant (R114, R115) -/

/-- What the invariant says of `RPHASE`, `RBUF` and `ATT`. -/
structure ReaderInv (s : State) : Prop where
  att_budget : s.att ≤ s.params.maxAttempts
  att_reading : s.rphase = .reading → s.att < s.params.maxAttempts
  rbuf_length : s.rbuf.length ≤ s.params.chunk * s.att
  reading_incomplete : s.rphase = .reading → complete s.rbuf = false
  done_complete : s.rphase = .done → complete s.rbuf = true

theorem Inv.reader {s : State} (h : Inv s) : ReaderInv s :=
  ⟨h.att_budget, h.att_reading, h.rbuf_length, h.reading_incomplete, h.done_complete⟩

/-- It speaks of four fields only. -/
theorem ReaderInv.congr {s t : State} (h : ReaderInv s) (hrphase : t.rphase = s.rphase) (hrbuf : t.rbuf = s.rbuf)
    (hatt : t.att = s.att) (hparams : t.params = s.params) : ReaderInv t := by
  obtain ⟨h1, h2, h3, h4, h5⟩ := h
  constructor <;> simpa only [hrphase, hrbuf, hatt, hparams]

theorem ReaderInv.of_sameBlock {s t : State} (h : ReaderInv s) (hst : SameBlock s t) : ReaderInv t := by
  obtain ⟨-, -, -, hrphase, hrbuf, hatt, -, -, hparams, -⟩ := hst
  exact h.congr hrphase hrbuf hatt hparams

theorem readerInv_beginRead {s : State} (hv : s.params.valid = true) : ReaderInv (beginRead s) where
  att_budget := Nat.zero_le _
  att_reading _ := (valid_pos hv).1
  rbuf_length := Nat.zero_le _
  reading_incomplete _ := complete_nil
  done_complete h := by simp at h

theorem ReaderInv.raiseReader {s : State} (h : ReaderInv s) (e : Error) : ReaderInv (raiseReader e s) where
  att_budget := h.att_budget
  att_reading hr := by simp at hr
  rbuf_length := h.rbuf_length
  reading_incomplete hr := by simp at hr
  done_complete hr := by simp at hr

/-- What is received keeps to `CHUNK` bytes for each counted read. -/
theorem rbuf_length_receive {s : State} {bs : List Byte} (h : s.rbuf.length ≤ s.params.chunk * s.att)
    (hbs : bs.length ≤ s.params.chunk) : (s.rbuf ++ bs).length ≤ s.params.chunk * (s.att + 1) := by
  rw [List.length_append, Nat.mul_succ]
  omega

/-- Completion is tested before the budget, so the reader goes on only where both allow it. -/
theorem ReaderInv.receive {s : State} (h : ReaderInv s) (hr : s.rphase = .reading) {bs : List Byte}
    (hbs : bs.length ≤ s.params.chunk) : ReaderInv (receive bs s) := by
  have hlen := rbuf_length_receive h.rbuf_length hbs
  have hatt := h.att_reading hr
  rcases receive_cases bs s with ⟨hc, he⟩ | ⟨hc, hm, he⟩ | ⟨hc, hm, he⟩ <;> rw [he]
  · exact ⟨hatt, by simp, hlen, by simp, fun _ => hc⟩
  · exact ⟨hatt, by simp, hlen, by simp, by simp⟩
  · exact ⟨hatt, fun _ => hm, hlen, fun _ => hc, by simp [hr]⟩

theorem ReaderInv.readIteration {s : State} (h : ReaderInv s) (hr : s.rphase = .reading) :
    ReaderInv (readIteration s) := by
  obtain ⟨hsame, -⟩ := rxRead_cases s.params.chunk s
  have hu := h.of_sameBlock hsame
  obtain ⟨-, -, -, hrphase, -, -, -, -, hparams, -⟩ := hsame
  rcases readIteration_cases s with ⟨e, he, -⟩ | ⟨bs, -, hbs, he⟩ <;> rw [he]
  · exact hu.raiseReader e
  · exact hu.receive (hrphase.trans hr) (by rwa [hparams])

/-! ## Two ways to meet the invariant -/

/-- Everything of the block that the reader leaves alone while an operation goes on. -/
structure SameOperation (s t : State) : Prop where
  lock : t.lock = s.lock
  xphase : t.xphase = s.xphase
  txf : t.txf = s.txf
  res : t.res = s.res
  port : t.port = s.port
  params : t.params = s.params
  turns : t.turns = s.turns

theorem SameBlock.rphase_eq {s t : State} (h : SameBlock s t) : t.rphase = s.rphase := by
  obtain ⟨-, -, -, hrphase, -⟩ := h
  exact hrphase

theorem SameBlock.sameOperation {s t : State} (h : SameBlock s t) : SameOperation s t := by
  obtain ⟨hl, hx, htxf, -, -, -, hres, hport, hparams, hturns⟩ := h
  exact ⟨hl, hx, htxf, hres, hport, hparams, hturns⟩

theorem SameOperation.trans {s t u : State} (hst : SameOperation s t) (htu : SameOperation t u) : SameOperation s u :=
  ⟨htu.lock.trans hst.lock, htu.xphase.trans hst.xphase, htu.txf.trans hst.txf, htu.res.trans hst.res,
    htu.port.trans hst.port, htu.params.trans hst.params, htu.turns.trans hst.turns⟩

/-- An idle block has no operation to speak of. -/
theorem inv_of_idle {s : State} (hv : s.params.valid = true) (hidle : s.isIdle = true)
    (htxf : s.txf = [] ∨ (9 ≤ s.txf.length ∧ s.txf.length ≤ 259)) (hreader : ReaderInv s) : Inv s := by
  obtain ⟨hx, hl, hr⟩ := (isIdle_iff s).1 hidle
  obtain ⟨h1, h2, h3, h4, h5⟩ := hreader
  exact ⟨hv, by rw [hx, hl]; exact legalControl_free_idle_iff.2 hr, fun h => absurd hx h, fun _ h => by simp [hl] at h,
    htxf, fun h => by simp [hx] at h, h1, h2, h3, h4, h5⟩

/-- The same operation goes on, its control state and buffer as the invariant wants them. -/
theorem Inv.of_sameOperation {s t : State} (h : Inv s) (hop : SameOperation s t)
    (hcontrol : legalControl t.lock t.xphase t.rphase = true) (hreader : ReaderInv t) : Inv t := by
  obtain ⟨h1, h2, h3, h4, h5⟩ := hreader
  refine ⟨hop.params ▸ h.params_valid, hcontrol, ?_, ?_, hop.txf ▸ h.txf_length, ?_, h1, h2, h3, h4, h5⟩
  · rw [hop.xphase, hop.port]
    exact h.exchange_runs
  · rw [hop.xphase, hop.lock, hop.port]
    exact h.readFrame_runs
  · rw [hop.xphase, hop.port, hop.txf]
    exact h.txf_frame

/-- An operation that is not reading can end at any time. -/
theorem Inv.endOperation {s : State} (h : Inv s) (hr : s.rphase ≠ .reading) (r : Res) : Inv (endOperation r s) :=
  inv_of_idle h.params_valid ((isIdle_iff _).2 ⟨rfl, rfl, hr⟩) h.txf_length
    (h.reader.congr rfl rfl rfl rfl)

theorem retireIfEnded_of_idle {s : State} (h : s.isIdle = true) : retireIfEnded s = retire s :=
  if_pos h

theorem retireIfEnded_of_busy {s : State} (h : ¬ s.isIdle = true) : retireIfEnded s = s :=
  if_neg h

/-- An answered request may leave the port: the block is idle. -/
theorem Inv.retireIfEnded {s : State} (h : Inv s) : Inv (retireIfEnded s) := by
  by_cases hidle : s.isIdle = true
  · rw [retireIfEnded_of_idle hidle]
    exact inv_of_idle h.params_valid hidle h.txf_length (h.reader.congr rfl rfl rfl rfl)
  · rwa [retireIfEnded_of_busy hidle]

/-- Of the port the invariant speaks of the head only. -/
theorem Inv.of_port {s : State} (h : Inv s) {port : List Request}
    (hport : ∀ r rest, s.port = r :: rest → ∃ rest', port = r :: rest') : Inv { s with port := port } := by
  refine ⟨h.params_valid, h.control, fun hne => ?_, fun hidle hheld => ?_, h.txf_length, fun hw => ?_, h.att_budget,
    h.att_reading, h.rbuf_length, h.reading_incomplete, h.done_complete⟩
  · obtain ⟨r, rest, cmd, segs, hp, hd⟩ := h.exchange_runs hne
    obtain ⟨rest', hp'⟩ := hport r rest hp
    exact ⟨r, rest', cmd, segs, hp', hd⟩
  · obtain ⟨r, rest, hp, hd⟩ := h.readFrame_runs hidle hheld
    obtain ⟨rest', hp'⟩ := hport r rest hp
    exact ⟨r, rest', hp', hd⟩
  · obtain ⟨r, rest, cmd, segs, hp, hd, hf⟩ := h.txf_frame hw
    obtain ⟨rest', hp'⟩ := hport r rest hp
    exact ⟨r, rest', cmd, segs, hp', hd, hf⟩

/-- The invariant does not speak of the model's own lists, of the streams or of `RES`. -/
theorem Inv.of_unrelated {s : State} (h : Inv s) (ts : List Turn) (tstate : TState) (inbound : List Byte) (res : Res) :
    Inv { s with turns := ts, tstate := tstate, inbound := inbound, res := res } :=
  ⟨h.params_valid, h.control, h.exchange_runs, h.readFrame_runs, h.txf_length, h.txf_frame, h.att_budget, h.att_reading,
    h.rbuf_length, h.reading_incomplete, h.done_complete⟩

/-! ## What a block's move leaves -/

/-- What the meaning of an instruction that the block runs leaves: the invariant, and a result or an error where the
operation has ended. -/
structure BlockLeaves (t : State) : Prop where
  inv : Inv t
  result : t.isIdle = true → t.res ≠ .none

theorem Inv.answer {s : State} (h : Inv s) (r : Res) : Inv (answer r s) :=
  h.of_unrelated s.turns s.tstate s.inbound r

theorem blockLeaves_of_answer {s : State} (h : Inv s) {r : Res} (hr : r ≠ .none) : BlockLeaves (answer r s) :=
  ⟨h.answer r, fun _ => hr⟩

theorem blockLeaves_of_endOperation {s : State} (h : Inv s) (hr : s.rphase ≠ .reading) {r : Res} (hne : r ≠ .none) :
    BlockLeaves (endOperation r s) :=
  ⟨h.endOperation hr r, fun _ => hne⟩

/-- Data ends a read by its budget, completes its frame or lets it go on, one attempt further. -/
theorem receive_ends_or_goes_on (bs : List Byte) (s : State) :
    ∃ u, SameOperation s u ∧
      ((∃ e, receive bs s = raiseReader e u) ∨
        (receive bs s = u ∧ (u.rphase = .done ∨ (u.rphase = s.rphase ∧ u.att = s.att + 1)))) := by
  rcases receive_cases bs s with ⟨-, hc⟩ | ⟨-, -, hc⟩ | ⟨-, -, hc⟩
  · exact ⟨{ s with rbuf := s.rbuf ++ bs, att := s.att + 1, rphase := .done }, ⟨rfl, rfl, rfl, rfl, rfl, rfl, rfl⟩,
      .inr ⟨hc, .inl rfl⟩⟩
  · exact ⟨{ s with rbuf := s.rbuf ++ bs, att := s.att + 1 }, ⟨rfl, rfl, rfl, rfl, rfl, rfl, rfl⟩, .inl ⟨_, hc⟩⟩
  · exact ⟨{ s with rbuf := s.rbuf ++ bs, att := s.att + 1 }, ⟨rfl, rfl, rfl, rfl, rfl, rfl, rfl⟩,
      .inr ⟨hc, .inr ⟨rfl, rfl⟩⟩⟩

/-- One iteration of the reader raises an error, or goes on with the operation. -/
theorem readIteration_ends_or_goes_on (s : State) :
    ∃ u, SameOperation s u ∧
      ((∃ e, readIteration s = raiseReader e u) ∨
        (readIteration s = u ∧ (u.rphase = .done ∨ (u.rphase = s.rphase ∧ u.att = s.att + 1)))) := by
  obtain ⟨hsame, -⟩ := rxRead_cases s.params.chunk s
  obtain ⟨-, -, -, hrphase, -, hatt, -⟩ := id hsame
  rcases readIteration_cases s with ⟨e, he, -⟩ | ⟨bs, -, -, he⟩ <;> rw [he]
  · exact ⟨_, hsame.sameOperation, .inl ⟨e, rfl⟩⟩
  · obtain ⟨u, hop, hu⟩ := receive_ends_or_goes_on bs (rxRead s.params.chunk s).2
    exact ⟨u, hsame.sameOperation.trans hop, by rwa [hrphase, hatt] at hu⟩

theorem blockLeaves_of_readIteration {s : State} (h : Inv s) (hr : s.rphase = .reading) :
    BlockLeaves (readIteration s) := by
  have hreader := h.reader.readIteration hr
  have hcontrol : legalControl s.lock s.xphase .reading = true := hr ▸ h.control
  obtain ⟨hheld, -⟩ := legalControl_reading_iff.1 hcontrol
  obtain ⟨u, hop, ⟨e, he⟩ | ⟨he, hphase⟩⟩ := readIteration_ends_or_goes_on s <;> rw [he] at hreader ⊢
  · exact ⟨inv_of_idle (hop.params ▸ h.params_valid) (raiseReader_isIdle u e) (hop.txf ▸ h.txf_length) hreader, by simp⟩
  · refine ⟨h.of_sameOperation hop ?_ hreader, fun hidle => ?_⟩
    · rw [hop.lock, hop.xphase]
      rcases hphase with hdone | ⟨hreading, -⟩
      · exact hdone ▸ legalControl_done_of_reading hcontrol
      · exact hreading ▸ h.control
    · obtain ⟨-, hfree, -⟩ := (isIdle_iff _).1 hidle
      simp [hop.lock, hheld] at hfree

theorem Inv.of_sameBlock {s t : State} (h : Inv s) (hst : SameBlock s t) : Inv t := by
  refine h.of_sameOperation hst.sameOperation ?_ (h.reader.of_sameBlock hst)
  obtain ⟨hl, hx, -, hr, -⟩ := hst
  rw [hl, hx, hr]
  exact h.control

/-- The request that runs is known: READ_FRAME at the head of the port means that no exchange is under way. -/
theorem Inv.xphase_of_readFrame {s : State} (h : Inv s) {r : Request} {rest : List Request} (hport : s.port = r :: rest)
    (hd : decodeRequest r = .readFrame) : s.xphase = .idle := by
  by_contra hne
  obtain ⟨r', rest', cmd, segs, hp, hd'⟩ := h.exchange_runs hne
  obtain ⟨rfl, -⟩ := List.cons.inj (hport.symm.trans hp)
  simp [hd] at hd'

/-- An EXCHANGE at the head of the port means that no READ_FRAME of the port is under way. -/
theorem Inv.lock_of_exchange {s : State} (h : Inv s) {r : Request} {rest : List Request} {cmd : Half}
    {segs : List (List Byte)} (hport : s.port = r :: rest) (hd : decodeRequest r = .exchange cmd segs)
    (hx : s.xphase = .idle) : s.lock = .free := by
  cases hl : s.lock with
  | free => rfl
  | held =>
    obtain ⟨r', rest', hp, hd'⟩ := h.readFrame_runs hx hl
    obtain ⟨rfl, -⟩ := List.cons.inj (hport.symm.trans hp)
    simp [hd] at hd'

/-- READ_FRAME is accepted, or hands over its frame. -/
theorem blockLeaves_of_readFrame {s t : State} (h : Inv s) (hr : s.rphase ≠ .reading) {r : Request}
    {rest : List Request} (hport : s.port = r :: rest) (hd : decodeRequest r = .readFrame)
    (ht : exec .readFrame s = .next t) : BlockLeaves t := by
  have hx := h.xphase_of_readFrame hport hd
  by_cases hdone : s.lock = .held ∧ s.rphase = .done
  · obtain ⟨hl, hrd⟩ := hdone
    obtain rfl : returnOk _ s = t := by simpa [exec_readFrame_done hl hrd] using ht
    exact blockLeaves_of_endOperation h hr (by simp)
  · obtain rfl : beginRead { s with lock := .held } = t := by simpa [exec_readFrame_start hdone] using ht
    obtain ⟨h1, h2, h3, h4, h5⟩ := readerInv_beginRead (s := { s with lock := .held }) h.params_valid
    have hcontrol : legalControl .held s.xphase .reading = true := legalControl_reading_iff.2 ⟨rfl, .inl hx⟩
    exact ⟨⟨h.params_valid, hcontrol, fun hne => absurd hx hne, fun _ _ => ⟨r, rest, hport, hd⟩, h.txf_length,
      fun hw => absurd (hw.symm.trans hx) (by simp), h1, h2, h3, h4, h5⟩, by simp [isIdle_iff]⟩

/-- An exchange under way: its request stands at the head of the port, and before the write `TXF` is its frame. -/
theorem inv_of_exchange {t : State} {r : Request} {rest : List Request} {cmd : Half} {segs : List (List Byte)}
    (hport : t.port = r :: rest) (hd : decodeRequest r = .exchange cmd segs) (hx : t.xphase ≠ .idle)
    (hv : t.params.valid = true) (hcontrol : legalControl t.lock t.xphase t.rphase = true)
    (htxf : t.txf = [] ∨ (9 ≤ t.txf.length ∧ t.txf.length ≤ 259))
    (hframe : t.xphase = .write → encodeFrame cmd segs = .ok t.txf) (hreader : ReaderInv t) : Inv t := by
  obtain ⟨h1, h2, h3, h4, h5⟩ := hreader
  exact ⟨hv, hcontrol, fun _ => ⟨r, rest, cmd, segs, hport, hd⟩, fun hidle => absurd hidle hx, htxf,
    fun hw => ⟨r, rest, cmd, segs, hport, hd, hframe hw⟩, h1, h2, h3, h4, h5⟩

section
variable {s : State} {r : Request} {rest : List Request} {cmd : Half} {segs : List (List Byte)}

theorem blockLeaves_of_exchangeStart (h : Inv s) (hr : s.rphase ≠ .reading) (hport : s.port = r :: rest)
    (hd : decodeRequest r = .exchange cmd segs) (hx : s.xphase = .idle) :
    BlockLeaves { s with xphase := .encode } := by
  have hl := h.lock_of_exchange hport hd hx
  have hcontrol : legalControl s.lock .encode s.rphase = true := legalControl_encode_iff.2 ⟨hl, hr⟩
  exact ⟨inv_of_exchange hport hd (by simp) h.params_valid hcontrol h.txf_length (by simp)
    (h.reader.congr rfl rfl rfl rfl), by simp [isIdle_iff]⟩

theorem blockLeaves_of_exchangeEncode (h : Inv s) (hport : s.port = r :: rest)
    (hd : decodeRequest r = .exchange cmd segs) (hx : s.xphase = .encode) :
    BlockLeaves (exchangeEncode cmd segs s) := by
  obtain ⟨-, hr⟩ := legalControl_encode_iff.1 (hx ▸ h.control)
  cases he : encodeFrame cmd segs with
  | error e =>
    rw [exchangeEncode_error cmd segs he]
    exact blockLeaves_of_endOperation h hr (by simp)
  | ok f =>
    rw [exchangeEncode_ok cmd segs he]
    have hcontrol : legalControl .held .write s.rphase = true := legalControl_write_iff.2 ⟨rfl, hr⟩
    exact ⟨inv_of_exchange hport hd (by simp) h.params_valid hcontrol (.inr (encodeFrame_length he)) (fun _ => he)
      (h.reader.congr rfl rfl rfl rfl), by simp [isIdle_iff]⟩

theorem blockLeaves_of_exchangeWrite (h : Inv s) (hport : s.port = r :: rest)
    (hd : decodeRequest r = .exchange cmd segs) (hx : s.xphase = .write) : BlockLeaves (exchangeWrite s) := by
  obtain ⟨hheld, hr⟩ := legalControl_write_iff.1 (hx ▸ h.control)
  obtain ⟨hsame, -⟩ := txWrite_cases s.txf s
  have hu := h.of_sameBlock hsame
  obtain ⟨hl, -, -, hrphase, -, -, -, hp, -⟩ := hsame
  rcases exchangeWrite_cases s with ⟨-, he⟩ | ⟨reason, -, he⟩ <;> rw [he]
  · have hcontrol : legalControl (txWrite s.txf s).2.lock .read .reading = true :=
      legalControl_read_iff.2 ⟨hl.trans hheld, .inl rfl⟩
    exact ⟨inv_of_exchange (hp.trans hport) hd (by simp) hu.params_valid hcontrol hu.txf_length (by simp)
      (readerInv_beginRead hu.params_valid), by simp [isIdle_iff]⟩
  · exact blockLeaves_of_endOperation hu (by rwa [hrphase]) (by simp)

theorem blockLeaves_of_exchangeRead (h : Inv s) (hport : s.port = r :: rest)
    (hd : decodeRequest r = .exchange cmd segs) (hx : s.xphase = .read) : BlockLeaves (exchangeRead s) := by
  obtain ⟨-, hr⟩ := legalControl_read_iff.1 (hx ▸ h.control)
  rcases exchangeRead_cases s with ⟨hdone, he⟩ | ⟨hreading, he⟩ | ⟨hnd, hnr, -⟩
  · rw [he]
    have hcontrol : legalControl .free .decode s.rphase = true := legalControl_decode_iff.2 ⟨rfl, hdone⟩
    exact ⟨inv_of_exchange hport hd (by simp) h.params_valid hcontrol h.txf_length (by simp)
      (h.reader.congr rfl rfl rfl rfl), by simp [isIdle_iff]⟩
  · rw [he]
    exact blockLeaves_of_readIteration h hreading
  · exact absurd hr (not_or.2 ⟨hnr, hnd⟩)

theorem blockLeaves_of_exchangeDecode (h : Inv s) (hx : s.xphase = .decode) : BlockLeaves (exchangeDecode s) := by
  obtain ⟨-, hr⟩ := legalControl_decode_iff.1 (hx ▸ h.control)
  rw [exchangeDecode_eq]
  exact blockLeaves_of_endOperation h (by simp [hr]) (ofExcept_ne_none _ _)

/-- EXCHANGE, one case for each phase of `XPHASE`. -/
theorem blockLeaves_of_exchange {t : State} (h : Inv s) (hr : s.rphase ≠ .reading) (hport : s.port = r :: rest)
    (hd : decodeRequest r = .exchange cmd segs) (ht : exec (.exchange cmd segs) s = .next t) : BlockLeaves t := by
  cases hx : s.xphase with
  | idle =>
    rw [exec_exchange_idle _ _ hx, Host.Outcome.next.injEq] at ht
    exact ht ▸ blockLeaves_of_exchangeStart h hr hport hd hx
  | encode =>
    rw [exec_exchange_encode _ _ hx, Host.Outcome.next.injEq] at ht
    exact ht ▸ blockLeaves_of_exchangeEncode h hport hd hx
  | write =>
    rw [exec_exchange_write _ _ hx, Host.Outcome.next.injEq] at ht
    exact ht ▸ blockLeaves_of_exchangeWrite h hport hd hx
  | read =>
    rw [exec_exchange_read _ _ hx, Host.Outcome.next.injEq] at ht
    exact ht ▸ blockLeaves_of_exchangeRead h hport hd hx
  | decode =>
    rw [exec_exchange_decode _ _ hx, Host.Outcome.next.injEq] at ht
    exact ht ▸ blockLeaves_of_exchangeDecode h hx

end

/-- What the request at the head of the port leaves, one case for each family of instructions. -/
theorem blockLeaves_of_request {s t : State} (h : Inv s) (hr : s.rphase ≠ .reading) {r : Request} {rest : List Request}
    (hport : s.port = r :: rest) (ht : exec (decodeRequest r) s = .next t) : BlockLeaves t := by
  have hwire := decodeRequest_not_wire r
  have of_pure {res : Res} (hp : pureResult (decodeRequest r) = some res) : BlockLeaves t := by
    obtain rfl : answer res s = t := by simpa [exec_of_pureResult hp] using ht
    exact blockLeaves_of_answer h (pureResult_ne_none hp)
  cases hd : decodeRequest r with
  | readFrame => exact blockLeaves_of_readFrame h hr hport hd (hd ▸ ht)
  | readStep =>
    rw [hd, exec_readStep_of_not_reading hr, Host.Outcome.next.injEq] at ht
    exact ht ▸ blockLeaves_of_answer h (by simp)
  | exchange cmd segs => exact blockLeaves_of_exchange h hr hport hd (hd ▸ ht)
  | wPreamble | wReqHeader | wEscByte | wEscPair | wStatusOk | wStatusErr =>
    rw [hd] at hwire
    exact (Bool.false_ne_true hwire.symm).elim
  | _ => exact of_pure (by rw [hd]; rfl)

end Sys2Proof.Machine
end

section
/-! PROOFS. Everything a step can do, and what follows for the whole machine: the invariant, windows, answered requests
and the parameters (spec/10_state.md R24, R28; spec/60_exceptions.md R165). -/

namespace Sys2Proof.Machine

/-! ## One step, move by move -/

/-- Everything one move can do to a state (R54). -/
inductive Moves (s : State) : State → Prop
  /-- Nothing. -/
  | waits : Moves s s
  /-- The block runs its next instruction, and a request whose operation has ended leaves the port. -/
  | runs {i : Instr} {u : State} (hi : nextInstr s = some i) (hu : exec i s = .next u) : Moves s (retireIfEnded u)
  /-- A window raises the error of the decode that is under way. -/
  | raises {raw : List Byte} {e : Error} (hraw : rawBuffer s = some raw) (he : decodeFrame raw = .error e) :
    Moves s (retireIfEnded (raise e s))
  /-- The environment moves the transport. -/
  | transport (tstate : TState) (inbound : List Byte) : Moves s { s with tstate := tstate, inbound := inbound }
  /-- A request arrives. -/
  | issues (r : Request) (ahead : Nat) : Moves s (issue r ahead s)

theorem nextInstr_of_reading {s : State} (hr : s.rphase = .reading) : nextInstr s = some .readStep :=
  if_pos hr

theorem nextInstr_of_port {s : State} {r : Request} {rest : List Request} (hr : s.rphase ≠ .reading)
    (hport : s.port = r :: rest) : nextInstr s = some (decodeRequest r) := by
  simp [nextInstr, hr, hport]

theorem nextInstr_of_empty {s : State} (hr : s.rphase ≠ .reading) (hport : s.port = []) : nextInstr s = none := by
  simp [nextInstr, hr, hport]

theorem blockMove_eq {s : State} {i : Instr} (h : nextInstr s = some i) :
    blockMove exec s = mapNext retireIfEnded (exec i s) := by
  simp [blockMove, h]

theorem moves_of_blockMove {s t : State} (h : blockMove exec s = .next t) : Moves s t := by
  cases hi : nextInstr s with
  | none =>
    obtain rfl : s = t := by simpa [blockMove, hi] using h
    exact .waits
  | some i =>
    rw [blockMove_eq hi] at h
    obtain ⟨u, hu, rfl⟩ := mapNext_eq_next h
    exact .runs hi hu

/-- A window turn does nothing, or raises the error of the pattern that the window shows. -/
theorem windowMove_cases (w : WireWindow) (s : State) :
    windowMove exec w s = .next s ∨
      ∃ raw e, rawBuffer s = some raw ∧ decodeFrame raw = .error e ∧
        windowMove exec w s = .next (retireIfEnded (raise e s)) := by
  unfold windowMove
  cases hd : decode (.window w) with
  | none => exact .inl rfl
  | some i =>
    have hexec := exec_of_window hd s
    cases he : patternError i s with
    | none => exact .inl (by rw [he] at hexec; simpa [he] using hexec)
    | some e =>
      obtain ⟨raw, hraw, herr⟩ := patternError_decodeFrame he
      rw [he, raiseIfAny_some] at hexec
      exact .inr ⟨raw, e, hraw, herr, by simp [he, hexec]⟩

theorem moves_of_takeTurn {s t : State} {turn : Turn} (h : takeTurn exec turn s = .next t) : Moves s t := by
  cases turn with
  | block => exact moves_of_blockMove h
  | window w =>
    rcases windowMove_cases w s with he | ⟨raw, e, hraw, herr, he⟩
    · obtain rfl : s = t := by simpa [takeTurn, he] using h
      exact .waits
    · obtain rfl : retireIfEnded (raise e s) = t := by simpa [takeTurn, he] using h
      exact .raises hraw herr
  | opens => exact Host.Outcome.next.inj h ▸ .transport .opened s.inbound
  | closes lost => exact Host.Outcome.next.inj h ▸ .transport .closed (s.inbound.drop lost)
  | sends bs => exact Host.Outcome.next.inj h ▸ .transport s.tstate (s.inbound ++ bs)
  | issues r ahead => exact Host.Outcome.next.inj h ▸ .issues r ahead
  | takesPayload =>
    have hwaits : takePayload s = .next s ∨ takePayload s = .fault .payloadOfNone := by
      unfold takePayload
      cases s.res <;> simp
    rcases hwaits with he | he
    · obtain rfl : s = t := by simpa [takeTurn, he] using h
      exact .waits
    · simp [takeTurn, he] at h

theorem step_of_turn {s : State} {t : Turn} {ts : List Turn} (hv : s.params.valid = true) (hturns : s.turns = t :: ts) :
    step s = takeTurn exec t { s with turns := ts } := by
  rw [step_of_valid hv, hturns]

/-- Everything a step can do: a move of the state whose turn is taken off. -/
theorem moves_of_step {s t : State} (h : step s = .next t) : ∃ ts, Moves { s with turns := ts } t := by
  have hv := step_next_valid h
  cases hturns : s.turns with
  | nil =>
    rw [step_of_valid hv, hturns] at h
    exact ⟨s.turns, moves_of_blockMove h⟩
  | cons turn ts =>
    rw [step_of_turn hv hturns] at h
    exact ⟨ts, moves_of_takeTurn h⟩

/-! ## The invariant -/

theorem issue_of_idle {s : State} (h : s.isIdle = true) (r : Request) (ahead : Nat) :
    issue r ahead s = { s with port := s.port.take ahead ++ r :: s.port.drop ahead } := by
  simp [issue, h]

/-- While the block is busy the running request is passed over (R57). -/
theorem issue_of_busy {s : State} (h : s.isIdle = false) (r : Request) (ahead : Nat) :
    issue r ahead s = { s with port := s.port.take (ahead + 1) ++ r :: s.port.drop (ahead + 1) } := by
  simp [issue, h]

theorem Inv.issue {s : State} (h : Inv s) (r : Request) (ahead : Nat) : Inv (issue r ahead s) := by
  cases hidle : s.isIdle with
  | true => exact inv_of_idle h.params_valid hidle h.txf_length (h.reader.congr rfl rfl rfl rfl)
  | false =>
    rw [issue_of_busy hidle]
    exact h.of_port fun running rest hport => ⟨_, by rw [hport]; rfl⟩

theorem Inv.rphase_of_rawBuffer {s : State} (h : Inv s) {raw : List Byte} (hraw : rawBuffer s = some raw) :
    s.rphase ≠ .reading := by
  rcases rawBuffer_eq_some.1 hraw with ⟨hx, -⟩ | ⟨hidle, -⟩
  · obtain ⟨-, hdone⟩ := legalControl_decode_iff.1 (hx ▸ h.control)
    simp [hdone]
  · obtain ⟨-, -, hr⟩ := (isIdle_iff s).1 hidle
    exact hr

theorem blockLeaves_of_nextInstr {s t : State} {i : Instr} (h : Inv s) (hi : nextInstr s = some i)
    (ht : exec i s = .next t) : BlockLeaves t := by
  by_cases hr : s.rphase = .reading
  · obtain rfl : .readStep = i := by simpa [nextInstr_of_reading hr] using hi
    rw [exec_readStep_reading hr, Host.Outcome.next.injEq] at ht
    exact ht ▸ blockLeaves_of_readIteration h hr
  · cases hport : s.port with
    | nil => simp [nextInstr_of_empty hr hport] at hi
    | cons r rest =>
      obtain rfl : decodeRequest r = i := by simpa [nextInstr_of_port hr hport] using hi
      exact blockLeaves_of_request h hr hport ht

theorem Moves.inv {s t : State} (hm : Moves s t) (h : Inv s) : Inv t := by
  cases hm with
  | waits => exact h
  | runs hi hu => exact (blockLeaves_of_nextInstr h hi hu).inv.retireIfEnded
  | raises hraw _ => exact (h.endOperation (h.rphase_of_rawBuffer hraw) _).retireIfEnded
  | transport tstate inbound => exact h.of_unrelated s.turns tstate inbound s.res
  | issues r ahead => exact h.issue r ahead

/-- Settles O50: every move keeps the invariant, and the turns are not part of it. -/
theorem everyStepKeepsInvariant : Obligations.EveryStepKeepsInvariant := by
  intro s t h hstep
  obtain ⟨ts, hm⟩ := moves_of_step hstep
  exact hm.inv (h.of_unrelated ts s.tstate s.inbound s.res)

/-- Settles O2: the block is idle at power-on, and its buffers are empty. -/
theorem resetMeetsInvariant : Obligations.ResetMeetsInvariant :=
  inv_of_idle rfl rfl (.inl rfl) ⟨Nat.zero_le _, nofun, Nat.zero_le _, nofun, nofun⟩

/-! ## What no instruction changes -/

/-- What an instruction does to what it shares with its environment: the port and the parameters stay, the transport is
not opened, and `bs` goes out on the line (R28, R55, R193). -/
structure Sends (bs : List Byte) (s t : State) : Prop where
  port : t.port = s.port
  params : t.params = s.params
  opens : t.tstate = .opened → s.tstate = .opened
  outbound : t.outbound = s.outbound ++ bs

theorem Sends.refl (s : State) : Sends [] s s :=
  ⟨rfl, rfl, id, (List.append_nil _).symm⟩

theorem Sends.trans {bs cs : List Byte} {s t u : State} (hst : Sends bs s t) (htu : Sends cs t u) :
    Sends (bs ++ cs) s u :=
  ⟨htu.port.trans hst.port, htu.params.trans hst.params, hst.opens ∘ htu.opens,
    by rw [htu.outbound, hst.outbound, List.append_assoc]⟩

/-- What is written over a state counts by these four fields alone. -/
theorem Sends.congr {bs : List Byte} {s t u : State} (h : Sends bs s t) (hport : u.port = t.port)
    (hparams : u.params = t.params) (htstate : u.tstate = t.tstate) (houtbound : u.outbound = t.outbound) :
    Sends bs s u :=
  ⟨hport.trans h.port, hparams.trans h.params, fun hu => h.opens (htstate ▸ hu), houtbound.trans h.outbound⟩

theorem sends_rxRead (n : Nat) (s : State) : Sends [] s (rxRead n s).2 := by
  obtain ⟨⟨-, -, -, -, -, -, -, hport, hparams, -⟩, hopens, hout, -⟩ := rxRead_cases n s
  exact ⟨hport, hparams, hopens, by rw [hout, List.append_nil]⟩

theorem sends_receive (bs : List Byte) (s : State) : Sends [] s (receive bs s) := by
  rcases receive_cases bs s with ⟨-, he⟩ | ⟨-, -, he⟩ | ⟨-, -, he⟩ <;> rw [he] <;>
    exact (Sends.refl s).congr rfl rfl rfl rfl

theorem sends_readIteration (s : State) : Sends [] s (readIteration s) := by
  have hread := sends_rxRead s.params.chunk s
  rcases readIteration_cases s with ⟨e, he, -⟩ | ⟨bs, -, -, he⟩ <;> rw [he]
  · exact hread.congr rfl rfl rfl rfl
  · exact hread.trans (sends_receive bs _)

/-- The one move that reaches the line: the first bytes of `TXF` (R50, R147). -/
theorem sends_exchangeWrite (s : State) : ∃ sent, Sends (s.txf.take sent) s (exchangeWrite s) := by
  obtain ⟨⟨-, -, -, -, -, -, -, hport, hparams, -⟩, hopens, -, sent, hout, -⟩ := txWrite_cases s.txf s
  have hwrite : Sends (s.txf.take sent) s (txWrite s.txf s).2 := ⟨hport, hparams, hopens, hout⟩
  rcases exchangeWrite_cases s with ⟨-, he⟩ | ⟨reason, -, he⟩ <;> rw [he] <;>
    exact ⟨sent, hwrite.congr rfl rfl rfl rfl⟩

theorem sends_exchangeEncode (cmd : Half) (segs : List (List Byte)) (s : State) :
    Sends [] s (exchangeEncode cmd segs s) := by
  cases he : encodeFrame cmd segs with
  | error e =>
    rw [exchangeEncode_error cmd segs he]
    exact (Sends.refl s).congr rfl rfl rfl rfl
  | ok f =>
    rw [exchangeEncode_ok cmd segs he]
    exact (Sends.refl s).congr rfl rfl rfl rfl

theorem sends_exchangeRead (s : State) : Sends [] s (exchangeRead s) := by
  rcases exchangeRead_cases s with ⟨-, he⟩ | ⟨-, he⟩ | ⟨-, -, he⟩ <;> rw [he]
  · exact (Sends.refl s).congr rfl rfl rfl rfl
  · exact sends_readIteration s
  · exact (Sends.refl s).congr rfl rfl rfl rfl

theorem sends_raiseIfAny (e : Option Error) (s : State) : Sends [] s (raiseIfAny e s) := by
  cases e <;> exact (Sends.refl s).congr rfl rfl rfl rfl

/-- Everything `exec` can do to the environment: only EXCHANGE in `X_WRITE` sends, from the front of `TXF`. -/
theorem exec_sends {i : Instr} {s t : State} (h : exec i s = .next t) :
    ∃ bs, Sends bs s t ∧
      (bs = [] ∨ (s.xphase = .write ∧ (∃ cmd segs, i = .exchange cmd segs) ∧ ∃ sent, bs = s.txf.take sent)) := by
  have of_pure {r : Res} (hr : pureResult i = some r) : Sends [] s t := by
    obtain rfl : answer r s = t := by simpa [exec_of_pureResult hr] using h
    exact (Sends.refl s).congr rfl rfl rfl rfl
  cases i with
  | readFrame =>
    refine ⟨[], ?_, .inl rfl⟩
    by_cases hdone : s.lock = .held ∧ s.rphase = .done
    · obtain ⟨hl, hr⟩ := hdone
      obtain rfl : returnOk _ s = t := by simpa [exec_readFrame_done hl hr] using h
      exact (Sends.refl s).congr rfl rfl rfl rfl
    · obtain rfl : beginRead { s with lock := .held } = t := by simpa [exec_readFrame_start hdone] using h
      exact (Sends.refl s).congr rfl rfl rfl rfl
  | readStep =>
    refine ⟨[], ?_, .inl rfl⟩
    by_cases hr : s.rphase = .reading
    · obtain rfl : readIteration s = t := by simpa [exec_readStep_reading hr] using h
      exact sends_readIteration s
    · obtain rfl : answer _ s = t := by simpa [exec_readStep_of_not_reading hr] using h
      exact (Sends.refl s).congr rfl rfl rfl rfl
  | exchange cmd segs =>
    cases hx : s.xphase with
    | idle =>
      rw [exec_exchange_idle _ _ hx, Host.Outcome.next.injEq] at h
      exact ⟨[], h ▸ (Sends.refl s).congr rfl rfl rfl rfl, .inl rfl⟩
    | encode =>
      rw [exec_exchange_encode _ _ hx, Host.Outcome.next.injEq] at h
      exact ⟨[], h ▸ sends_exchangeEncode cmd segs s, .inl rfl⟩
    | write =>
      rw [exec_exchange_write _ _ hx, Host.Outcome.next.injEq] at h
      obtain ⟨sent, hsent⟩ := sends_exchangeWrite s
      exact ⟨_, h ▸ hsent, .inr ⟨rfl, ⟨cmd, segs, rfl⟩, sent, rfl⟩⟩
    | read =>
      rw [exec_exchange_read _ _ hx, Host.Outcome.next.injEq] at h
      exact ⟨[], h ▸ sends_exchangeRead s, .inl rfl⟩
    | decode =>
      rw [exec_exchange_decode _ _ hx, exchangeDecode_eq, Host.Outcome.next.injEq] at h
      exact ⟨[], h ▸ (Sends.refl s).congr rfl rfl rfl rfl, .inl rfl⟩
  | wPreamble | wStatusErr => exact ⟨[], Host.Outcome.next.inj h ▸ sends_raiseIfAny _ s, .inl rfl⟩
  | wReqHeader | wEscByte | wEscPair | wStatusOk => exact ⟨[], Host.Outcome.next.inj h ▸ Sends.refl s, .inl rfl⟩
  | _ => exact ⟨[], of_pure rfl, .inl rfl⟩

/-- Settles O53. -/
theorem onlyExchangeReachesTheLine : Obligations.OnlyExchangeReachesTheLine := by
  intro i s t h
  obtain ⟨bs, hsends, hbs⟩ := exec_sends h
  refine ⟨hsends.opens, ?_⟩
  rcases hbs with rfl | ⟨hx, hi, sent, rfl⟩
  · exact .inl (by rw [hsends.outbound, List.append_nil])
  · exact .inr ⟨hx, hi, sent, hsends.outbound⟩

theorem retireIfEnded_params (s : State) : (retireIfEnded s).params = s.params := by
  by_cases hidle : s.isIdle = true
  · rw [retireIfEnded_of_idle hidle, retire_params]
  · rw [retireIfEnded_of_busy hidle]

theorem Moves.params {s t : State} (hm : Moves s t) : t.params = s.params := by
  cases hm with
  | waits => rfl
  | runs _ hu =>
    obtain ⟨bs, hsends, -⟩ := exec_sends hu
    rw [retireIfEnded_params, hsends.params]
  | raises _ _ => rw [retireIfEnded_params, raise_params]
  | transport _ _ => rfl
  | issues _ _ => rfl

/-- Settles O52: no move writes a parameter. -/
theorem parametersNeverChange : Obligations.ParametersNeverChange := by
  intro s t h
  obtain ⟨ts, hm⟩ := moves_of_step h
  exact hm.params

/-! ## Answered requests -/

/-- Only an idle block retires a request. -/
theorem retireIfEnded_of_shorter {u : State} (h : (retireIfEnded u).port.length < u.port.length) :
    u.isIdle = true ∧ retireIfEnded u = retire u := by
  by_cases hidle : u.isIdle = true
  · exact ⟨hidle, retireIfEnded_of_idle hidle⟩
  · simp [retireIfEnded_of_busy hidle] at h

theorem ended_of_retired {u : State} (hres : u.isIdle = true → u.res ≠ .none)
    (h : (retireIfEnded u).port.length < u.port.length) :
    (retireIfEnded u).lock = .free ∧ (retireIfEnded u).xphase = .idle ∧ (retireIfEnded u).res ≠ .none := by
  obtain ⟨hidle, he⟩ := retireIfEnded_of_shorter h
  obtain ⟨hx, hl, -⟩ := (isIdle_iff u).1 hidle
  rw [he]
  exact ⟨hl, hx, hres hidle⟩

theorem issue_port_length (r : Request) (ahead : Nat) (s : State) :
    (issue r ahead s).port.length = s.port.length + 1 := by
  simp [issue]
  omega

/-- Settles O51: only the two moves that end an operation shorten the port, and both leave a result or an error. -/
theorem answeredRequestReleasesLock : Obligations.AnsweredRequestReleasesLock := by
  intro s t h hstep hshorter
  obtain ⟨ts, hm⟩ := moves_of_step hstep
  have h' : Inv { s with turns := ts } := h.of_unrelated ts s.tstate s.inbound s.res
  cases hm with
  | waits => exact absurd hshorter (Nat.lt_irrefl _)
  | runs hi hu =>
    obtain ⟨bs, hsends, -⟩ := exec_sends hu
    have hres := (blockLeaves_of_nextInstr h' hi hu).result
    exact ended_of_retired hres (by rwa [hsends.port])
  | raises => exact ended_of_retired (fun _ => by simp) hshorter
  | transport => exact absurd hshorter (Nat.lt_irrefl _)
  | issues r ahead => exact absurd hshorter (by simp [issue_port_length])

/-! ## Windows -/

/-- An error of a window is the error that the block's own move raises: it decodes the same buffer (R126, R141). -/
theorem blockMove_of_rawBuffer {s : State} (h : Inv s) {raw : List Byte} {e : Error} (hraw : rawBuffer s = some raw)
    (he : decodeFrame raw = .error e) : blockMove exec s = .next (retireIfEnded (raise e s)) := by
  have hr := h.rphase_of_rawBuffer hraw
  rcases rawBuffer_eq_some.1 hraw with ⟨hx, rfl⟩ | ⟨hidle, r, rest, hport, hd⟩
  · obtain ⟨r, rest, cmd, segs, hport, hd⟩ := h.exchange_runs (by simp [hx])
    have hi : nextInstr s = some (.exchange cmd segs) := by rw [nextInstr_of_port hr hport, hd]
    rw [blockMove_eq hi, exec_exchange_decode _ _ hx, exchangeDecode_eq, he]
    rfl
  · obtain ⟨hx, hl, -⟩ := (isIdle_iff s).1 hidle
    have hi : nextInstr s = some (.decode raw) := by rw [nextInstr_of_port hr hport, hd]
    have hends : answer (.err e) s = raise e s := by simp [answer, raise, endOperation, hx, hl]
    rw [blockMove_eq hi, exec_decode, he, mapNext_next, ← hends]
    rfl

/-- Settles O49: the error of a window is that of the buffer which the block's own move decodes. -/
theorem windowTurnActsAsBlock : Obligations.WindowTurnActsAsBlock := by
  intro s w ts h hturns
  have h' : Inv { s with turns := ts } := h.of_unrelated ts s.tstate s.inbound s.res
  have hwindow : step s = windowMove exec w { s with turns := ts } := step_of_turn h.params_valid hturns
  have hblock : step { s with turns := .block :: ts } = blockMove exec { s with turns := ts } :=
    step_of_turn (s := { s with turns := .block :: ts }) h.params_valid rfl
  rw [hwindow, hblock]
  rcases windowMove_cases w { s with turns := ts } with hnone | ⟨raw, e, hraw, he, hraises⟩
  · exact .inl hnone
  · exact .inr (hraises.trans (blockMove_of_rawBuffer h' hraw he).symm)

end Sys2Proof.Machine
end

section
/-! PROOFS. The encoder's operations and the reader's length rule in every state (spec/40_encoder.md R100 to R103;
spec/41_reader.md R110 to R112, R119). -/

namespace Sys2Proof.Machine

/-! ## XORFOLD and BE16 -/

theorem xorfold_eq_foldr (bs : List Byte) : xorfold bs = bs.foldr (fun b x => b ^^^ x) 0x00#8 := by
  induction bs with
  | nil => rfl
  | cons b bs ih => rw [xorfold_cons, ih, List.foldr_cons]

/-- Bits 15..8, then bits 7..0 (R101). -/
theorem be16_eq (v : Half) : be16 v = [BitVec.ofNat 8 (v.toNat / 256), BitVec.ofNat 8 (v.toNat % 256)] := by
  have hhigh : v.extractLsb' 8 8 = BitVec.ofNat 8 (v.toNat / 256) := by
    rw [BitVec.extractLsb', Nat.shiftRight_eq_div_pow]
  have hlow : v.extractLsb' 0 8 = BitVec.ofNat 8 (v.toNat % 256) := by
    apply BitVec.eq_of_toNat_eq
    simp [BitVec.extractLsb']
  rw [be16, hhigh, hlow]

theorem exec_xorfold (bs : List Byte) (s : State) :
    exec (.xorfold bs) s = .next { s with res := .ok (.bytes [xorfold bs]) } := rfl

/-- Settles O10. -/
theorem byteFunctionsAnswer : Obligations.ByteFunctionsAnswer := by
  refine ⟨fun bs s => ?_, fun v s => ?_⟩
  · rw [exec_xorfold, xorfold_eq_foldr]
  · rw [← be16_eq]
    rfl

theorem xorfold_perm {bs cs : List Byte} (h : bs.Perm cs) : xorfold bs = xorfold cs := by
  induction h with
  | nil => rfl
  | cons b _ ih => rw [xorfold_cons, xorfold_cons, ih]
  | swap b c bs => simp only [xorfold_cons, ← BitVec.xor_assoc, BitVec.xor_comm]
  | trans _ _ ih₁ ih₂ => exact ih₁.trans ih₂

theorem xorfold_filter_nonzero (bs : List Byte) : xorfold (bs.filter fun b => decide (b ≠ 0x00#8)) = xorfold bs := by
  induction bs with
  | nil => rfl
  | cons b bs ih =>
    by_cases hb : b = 0x00#8
    · simp [hb, ← ih]
    · simp [hb, ← ih]

/-- Settles O11: exclusive-or commutes, and zero bytes do not count. -/
theorem xorfoldIgnoresOrderAndZeros : Obligations.XorfoldIgnoresOrderAndZeros := by
  intro bs cs s hperm
  have hfold : xorfold bs = xorfold cs := by
    rw [← xorfold_filter_nonzero bs, ← xorfold_filter_nonzero cs, xorfold_perm hperm]
  rw [exec_xorfold, exec_xorfold, hfold]

/-! ## FRAME_LENGTH and ENCODE -/

/-- Settles O12: on either side of 250 bytes. -/
theorem frameLengthAnswers : Obligations.FrameLengthAnswers := by
  intro segs s
  refine ⟨fun hfits => ?_, fun hlong => ?_⟩
  · rw [exec_of_pureResult (i := .frameLength segs) rfl, ← payloadLength_eq,
      frameLength_ok segs (payloadLength_eq segs ▸ hfits)]
    rfl
  · rw [exec_of_pureResult (i := .frameLength segs) rfl, ← payloadLength_eq,
      frameLength_error segs (payloadLength_eq segs ▸ hlong)]
    rfl

/-- `FrameTooLarge` is raised before any byte is produced (R103). -/
theorem encodeFrame_tooLarge (cmd : Half) {segs : List (List Byte)} (h : 250 < segs.flatten.length) :
    encodeFrame cmd segs = .error (.frameTooLarge (5 + segs.flatten.length)) := by
  rw [← payloadLength_eq] at h ⊢
  exact encodeFrame_error cmd segs h

theorem requestBody_eq (cmd : Half) (segs : List (List Byte)) :
    requestBody cmd segs =
      [0x00#8, 0x00#8, 0x00#8, BitVec.ofNat 8 (cmd.toNat / 256), BitVec.ofNat 8 (cmd.toNat % 256)] ++ segs.flatten := by
  rw [requestBody, be16_eq cmd, payload_eq_flatten]
  rfl

/-- Settles O13. -/
theorem encodeAnswersFrame : Obligations.EncodeAnswersFrame := by
  intro cmd segs s body
  refine ⟨fun hfits => ?_, fun hlong => ?_⟩
  · rw [exec_encode_fits cmd segs s hfits, requestBody_eq, frameAround, xorfold_eq_foldr]
    rfl
  · rw [exec_of_pureResult (i := .encode cmd segs) rfl, encodeFrame_tooLarge cmd hlong]
    rfl

/-- ENCODE reads the joined segments only (R103). -/
theorem encodeFrame_congr (cmd : Half) {segs segs' : List (List Byte)} (h : segs.flatten = segs'.flatten) :
    encodeFrame cmd segs = encodeFrame cmd segs' := by
  have hlen : payloadLength segs = payloadLength segs' := by rw [payloadLength_eq, payloadLength_eq, h]
  have hpay : payload segs = payload segs' := by rw [payload_eq_flatten, payload_eq_flatten, h]
  rw [encodeFrame, encodeFrame, frameLength, frameLength, requestBody, requestBody, hlen, hpay]

/-- Settles O15: an exchange reads its segments through ENCODE only. -/
theorem segmentBoundariesLeaveNoTrace : Obligations.SegmentBoundariesLeaveNoTrace := by
  intro cmd segs segs' s h
  have hframe := encodeFrame_congr cmd h
  refine ⟨?_, ?_⟩
  · rw [exec_of_pureResult (i := .encode cmd segs) rfl, exec_of_pureResult (i := .encode cmd segs') rfl, hframe]
  · simp only [exec, execExchange, exchangeEncode, hframe]

/-! ## The length rule -/

/-- Settles O16. -/
theorem lengthRuleAnswers : Obligations.LengthRuleAnswers := by
  refine ⟨fun bs s => rfl, fun a b l bs s => ?_, fun bs s hshort => ⟨?_, ?_⟩, fun a b l bs s => ?_⟩
  · rw [exec_of_pureResult (i := .expectedTotal _) rfl, expectedTotal_cons3]
    rfl
  · exact exec_expectedTotal_short hshort s
  · rw [exec_of_pureResult (i := .complete bs) rfl, complete_short hshort]
    rfl
  · rw [exec_of_pureResult (i := .complete _) rfl, complete_cons3]
    rfl

/-- Bytes that follow raise the expected total by the `0xAA` among them. -/
theorem expectedTotal_append {bs : List Byte} {total : Nat} (h : expectedTotal bs = some total) (more : List Byte) :
    expectedTotal (bs ++ more) = some (total + more.count 0xAA#8) := by
  match bs with
  | [] | [_] | [_, _] => simp [expectedTotal_short] at h
  | a :: b :: l :: bs =>
    rw [expectedTotal_cons3, Option.some_inj] at h
    rw [List.cons_append, List.cons_append, List.cons_append, expectedTotal_cons3, ← List.cons_append,
      List.count_append, ← h, ← Nat.add_assoc]

theorem complete_of_expectedTotal {bs : List Byte} {total : Nat} (h : expectedTotal bs = some total) :
    complete bs = decide (total ≤ bs.length) := by
  simp [complete, h]

theorem expectedTotal_of_complete {bs : List Byte} (h : complete bs = true) :
    ∃ total, expectedTotal bs = some total ∧ total ≤ bs.length := by
  unfold complete at h
  cases he : expectedTotal bs with
  | none => simp [he] at h
  | some total => exact ⟨total, rfl, by simpa [he] using h⟩

/-- Settles O17: a sequence holds no more `0xAA` than bytes, so the total rises by no more than the length. -/
theorem completenessIsNeverLost : Obligations.CompletenessIsNeverLost := by
  intro bs more h
  obtain ⟨total, htotal, hle⟩ := expectedTotal_of_complete h
  have hcount : more.count 0xAA#8 ≤ more.length := List.count_le_length
  rw [complete_of_expectedTotal (expectedTotal_append htotal more), decide_eq_true_eq, List.length_append]
  omega

/-- Settles O20: the length byte is counted as one stuffed pair too many, and one byte more makes up for it. -/
theorem escapeLengthByteDelaysCompletion : Obligations.EscapeLengthByteDelaysCompletion := by
  intro body b hbody
  have htotal : expectedTotal (responseWire body) = some ((responseWire body).length + 1) := by
    rw [expectedTotal_responseWire (by omega), if_pos hbody]
  refine ⟨?_, htotal, ?_⟩
  · rw [complete_of_expectedTotal htotal]
    simp
  · rw [complete_of_expectedTotal (expectedTotal_append htotal [b]), List.length_append, List.length_singleton]
    by_cases hb : b = 0xAA#8
    · simp [hb]
    · simp [hb, List.count_cons_of_ne]

end Sys2Proof.Machine
end

section
/-! PROOFS. The decoder's operations in every state, and what DECODE says of stuffed, encoded and damaged frames
(spec/42_decoder.md R125, R126, R130, R132, R133). -/

namespace Sys2Proof.Machine

/-! ## DESTUFF -/

/-- Behind `prev`, the byte at each offset is dropped or kept by its predecessor in the input. -/
theorem destuffAfter_eq_filterMap (prev : Byte) (bs : List Byte) :
    destuffAfter prev bs = (List.range bs.length).filterMap fun i =>
      if bs[i]? = some 0x00#8 ∧ (prev :: bs)[i]? = some 0xAA#8 then none else bs[i]? := by
  induction bs generalizing prev with
  | nil => rfl
  | cons b bs ih =>
    rw [List.length_cons, List.range_succ_eq_map, List.filterMap_cons, List.filterMap_map, destuffAfter, ih b]
    by_cases hb : b = 0x00#8 ∧ prev = 0xAA#8
    · simp [hb]
    · simp [hb]

/-- Settles O22: the first byte has no predecessor. -/
theorem destuffDropsZerosAfterEscapes : Obligations.DestuffDropsZerosAfterEscapes := by
  intro bs s
  have hpred (i : Nat) : (0x00#8 :: bs)[i]? = some 0xAA#8 ↔ 0 < i ∧ bs[i - 1]? = some 0xAA#8 := by
    cases i <;> simp
  rw [exec_of_pureResult (i := .destuff bs) rfl, destuff_eq_destuffAfter_zero, destuffAfter_eq_filterMap]
  simp only [hpred]
  rfl

/-- Settles O23. -/
theorem destuffUndoesStuff : Obligations.DestuffUndoesStuff :=
  fun bs => ⟨destuff_stuff bs, stuff_length bs⟩

/-! ## DECODE, check by check (R126, R127) -/

section
variable {raw : List Byte}

theorem decodeFrame_of_badPreamble (h : raw.take 2 ≠ [0xAA#8, 0xBB#8]) :
    decodeFrame raw = .error (.invalidPreamble (raw.take 2)) :=
  if_neg h

theorem decodeFrame_of_short (hpre : raw.take 2 = [0xAA#8, 0xBB#8]) (hlen : raw.length < 9) :
    decodeFrame raw = .error (.frameTooShort raw.length) := by
  have h8 : raw[8]? = none := List.getElem?_eq_none (by omega)
  rw [decodeFrame, pre1_eq, pre2_eq, if_pos hpre]
  simp only [h8]

theorem decodeFrame_of_badStatus {status : Byte} (hpre : raw.take 2 = [0xAA#8, 0xBB#8]) (h8 : raw[8]? = some status)
    (hstatus : status ≠ 0x00#8) : decodeFrame raw = .error (.deviceStatusError status) := by
  rw [decodeFrame, pre1_eq, pre2_eq, if_pos hpre]
  simp only [h8]
  exact if_neg hstatus

theorem decodeFrame_of_okStatus (hpre : raw.take 2 = [0xAA#8, 0xBB#8]) (h8 : raw[8]? = some 0x00#8) :
    decodeFrame raw = checkSum (raw.drop 3) := by
  rw [decodeFrame, pre1_eq, pre2_eq, if_pos hpre]
  simp only [h8]
  rfl

theorem checkSum_of_ne {r : List Byte} (h : xorfold r.dropLast ≠ r.getLastD 0x00#8) :
    checkSum r = .error (.invalidChecksum (xorfold r.dropLast) (r.getLastD 0x00#8)) :=
  if_neg h

/-- Settles O21, one check after the other. -/
theorem decodeChecksInOrder : Obligations.DecodeChecksInOrder := by
  intro raw s r computed received d
  have hcomputed : xorfold r.dropLast = computed := by rw [xorfold_eq_foldr, List.dropLast_eq_take]
  rw [exec_decode]
  by_cases hpre : raw.take 2 = [0xAA#8, 0xBB#8]
  · rw [if_neg (not_not_intro hpre)]
    by_cases hlen : raw.length < 9
    · rw [if_pos hlen, decodeFrame_of_short hpre hlen]
      rfl
    · have h8 : raw[8]? = some raw[8] := List.getElem?_eq_getElem (by omega)
      rw [if_neg hlen]
      by_cases hstatus : raw[8]? = some 0x00#8
      · rw [if_neg (not_not_intro hstatus), decodeFrame_of_okStatus hpre hstatus]
        by_cases hsum : computed = received
        · rw [if_neg (not_not_intro hsum), checkSum, if_pos (hcomputed.trans hsum), extractPayload]
          split <;> rfl
        · rw [if_pos hsum, checkSum_of_ne (hcomputed ▸ hsum), hcomputed]
          rfl
      · rw [if_pos hstatus, decodeFrame_of_badStatus hpre h8 (fun h => hstatus (h ▸ h8)),
          List.getD_eq_getElem?_getD, h8]
        rfl
  · rw [if_pos hpre, decodeFrame_of_badPreamble hpre]
    rfl

/-- What DECODE accepts: it passes the four checks, and gives its payload up. -/
theorem decodeFrame_eq_ok_iff {p : List Byte} :
    decodeFrame raw = .ok p ↔
      raw.take 2 = [0xAA#8, 0xBB#8] ∧ raw[8]? = some 0x00#8 ∧ xorfold (raw.drop 3) = 0x00#8 ∧
        extractPayload (raw.drop 3) = .ok p := by
  by_cases hpre : raw.take 2 = [0xAA#8, 0xBB#8]
  · cases h8 : raw[8]? with
    | none => simp [decodeFrame_of_short hpre (Nat.lt_succ_of_le (List.getElem?_eq_none_iff.1 h8))]
    | some status =>
      have hne : raw.drop 3 ≠ [] := by
        obtain ⟨hlen, -⟩ := List.getElem?_eq_some_iff.1 h8
        exact List.drop_eq_nil_iff.not.2 (by omega)
      by_cases hstatus : status = 0x00#8
      · subst hstatus
        rw [decodeFrame_of_okStatus hpre h8]
        by_cases hfold : xorfold (raw.drop 3) = 0x00#8
        · simp [hpre, hfold, checkSum_of_xorfold_zero hne hfold]
        · have := (checksum_passes_iff hne).not.2 hfold
          simp [hfold, checkSum_of_ne this]
      · simp [decodeFrame_of_badStatus hpre h8 hstatus, hstatus]
  · simp [decodeFrame_of_badPreamble hpre, hpre]

end

/-! ## A status behind a stuffed command byte (R130) -/

/-- Settles O26: the stuffed pair moves its own zero byte to offset 8. -/
theorem statusMissedBehindStuffedCommand : Obligations.StatusMissedBehindStuffedCommand := by
  intro rsv devHi devLo cmdHi status data s _ hrsv hdevHi hdevLo hcmdHi
  have hplain : 0xAA#8 ∉ [rsv, devHi, devLo, cmdHi] := by
    simp [hrsv.symm, hdevHi.symm, hdevLo.symm, hcmdHi.symm]
  have hzero (rest : List Byte) :
      (stuff ([rsv, devHi, devLo, cmdHi] ++ 0xAA#8 :: rest))[5]? = some 0x00#8 := by
    rw [stuff_append_plain hplain, stuff_esc]
    rfl
  have hdecode : decodeFrame (responseWire ([rsv, devHi, devLo, cmdHi, 0xAA#8, status] ++ data)) = .ok data :=
    decodeFrame_responseWire rfl (hzero _)
  rw [exec_decode, hdecode]
  rfl

/-! ## The round trip of ENCODE and DECODE (R132) -/

theorem destuffAfter_concat_of_not_mem {prev : Byte} {bs : List Byte} (hprev : prev ≠ 0xAA#8) (h : 0xAA#8 ∉ bs)
    (c : Byte) : destuffAfter prev (bs ++ [c]) = bs ++ [c] := by
  have hstays (b : Byte) : ¬ (b = 0x00#8 ∧ prev = 0xAA#8) := fun hb => hprev hb.2
  induction bs generalizing prev with
  | nil => exact destuffAfter_plain (hstays c) []
  | cons b bs ih =>
    obtain ⟨hb, hbs⟩ := not_or.1 (List.mem_cons.not.1 h)
    rw [List.cons_append, destuffAfter_plain (hstays b), ih (Ne.symm hb) hbs fun _ h => hb h.2.symm]

/-- Bytes without `0xAA` have nothing to destuff, whatever the last byte is. -/
theorem destuff_concat_of_not_mem {bs : List Byte} (h : 0xAA#8 ∉ bs) (c : Byte) : destuff (bs ++ [c]) = bs ++ [c] := by
  rw [destuff_eq_destuffAfter_zero, destuffAfter_concat_of_not_mem (by decide) h]

/-- DECODE of a frame whose body holds no `0xAA` and a zero byte at offset 8 answers what stands behind that byte. -/
theorem decodeFrame_frameAround {hdr data : List Byte} (l : Nat) (hhdr : hdr.length = 6)
    (hstatus : hdr[5]? = some 0x00#8) (hesc : 0xAA#8 ∉ hdr ++ data) :
    decodeFrame (frameAround l (hdr ++ data)) = .ok data := by
  have h8 : (frameAround l (hdr ++ data))[8]? = some 0x00#8 := by
    rw [← List.getElem?_drop (i := 3) (j := 5), frameAround_drop_header, List.append_assoc,
      List.getElem?_append_left (by omega), hstatus]
  rw [decodeFrame_eq_ok_iff, frameAround_drop_header]
  exact ⟨frameAround_take_preamble l _, h8, xorfold_append_checksum _,
    extractPayload_of_destuff hhdr (destuff_concat_of_not_mem hesc _)⟩

/-- Without `0xAA` from the length byte on, the reader counts a frame to its end. -/
theorem expectedTotal_frameAround {body : List Byte} (hlen : body.length ≤ 255)
    (hl : BitVec.ofNat 8 body.length ≠ 0xAA#8) (hesc : 0xAA#8 ∉ body ++ [xorfold body]) :
    expectedTotal (frameAround body.length body) = some (frameAround body.length body).length := by
  have hframe : frameAround body.length body =
      0xAA#8 :: 0xBB#8 :: BitVec.ofNat 8 body.length :: (body ++ [xorfold body]) := rfl
  have hbyte : (BitVec.ofNat 8 body.length).toNat = body.length := by
    rw [BitVec.toNat_ofNat]
    omega
  rw [frameAround_length, hframe, expectedTotal_cons3, hbyte, List.count_cons_of_ne hl,
    List.count_eq_zero_of_not_mem hesc]

/-- Without `0xAA` from the length byte on, the reader completes a frame at its end and not before. -/
theorem complete_frameAround {body : List Byte} (hlen : body.length ≤ 255) (hesc : 0xAA#8 ∉ body)
    (hl : (frameAround body.length body)[2]? ≠ some 0xAA#8)
    (hlast : (frameAround body.length body).getLast? ≠ some 0xAA#8) :
    complete (frameAround body.length body) = true ∧
      ∀ k, k < (frameAround body.length body).length → complete ((frameAround body.length body).take k) = false := by
  rw [frameAround_lengthByte, Ne, Option.some_inj] at hl
  rw [frameAround, List.getLast?_concat, Ne, Option.some_inj] at hlast
  have htotal := expectedTotal_frameAround hlen hl (by simp [hesc, Ne.symm hlast])
  refine ⟨complete_of_expectedTotal_eq_length htotal, fun k hk => ?_⟩
  match k with
  | 0 | 1 | 2 => exact complete_short (by simp)
  | n + 3 =>
    rw [frameAround_length] at hk
    exact complete_cons3_take (bs := body ++ [xorfold body]) (by simp; omega) (by simpa using hlast) htotal

/-- Settles O27: the leading zero byte stands where DECODE looks for the status. -/
theorem encodedRequestDecodesBack : Obligations.EncodedRequestDecodesBack := by
  intro cmd segs s hfits hcmd hsegs
  have hbody : requestBody cmd ([0x00#8] :: segs) =
      ([0x00#8, 0x00#8, 0x00#8] ++ be16 cmd ++ [0x00#8]) ++ segs.flatten := by
    rw [requestBody, payload_eq_flatten, List.flatten_cons, ← List.append_assoc]
    rfl
  have hlength : (requestBody cmd ([0x00#8] :: segs)).length = 5 + ([0x00#8] :: segs).flatten.length := by
    rw [requestBody_length, payloadLength_eq]
  have hsize : ([0x00#8] :: segs).flatten.length = segs.flatten.length + 1 := by
    rw [List.flatten_cons, List.length_append, List.length_singleton, Nat.add_comm]
  have hesc : 0xAA#8 ∉ requestBody cmd ([0x00#8] :: segs) := by
    rw [hbody]
    simp [hcmd, hsegs]
  refine ⟨_, exec_encode_fits cmd _ s (by omega), ?_, fun hl hlast => ?_⟩
  · rw [hbody] at hesc ⊢
    rw [exec_decode, decodeFrame_frameAround _ rfl rfl hesc]
    rfl
  · rw [← hlength] at hl hlast ⊢
    exact complete_frameAround (by omega) hesc hl hlast

/-! ## Damaged frames (R133) -/

theorem xor_twoPow_ne {b : Byte} {j : Nat} (hj : j < 8) : b ^^^ BitVec.twoPow 8 j ≠ b := by
  intro h
  have hbit := congrArg (BitVec.getLsbD · j) h
  simp [hj] at hbit

/-- Changing one byte changes the fold by the difference. -/
theorem xorfold_set {bs : List Byte} {k : Nat} {b : Byte} (h : bs[k]? = some b) (c : Byte) :
    xorfold (bs.set k c) = c ^^^ b ^^^ xorfold bs := by
  induction bs generalizing k with
  | nil => simp at h
  | cons x bs ih =>
    cases k with
    | zero =>
      obtain rfl : x = b := by simpa using h
      rw [List.set_cons_zero, xorfold_cons, xorfold_cons, ← BitVec.xor_assoc, BitVec.xor_assoc c, BitVec.xor_self,
        BitVec.xor_zero]
    | succ k =>
      rw [List.set_cons_succ, xorfold_cons, xorfold_cons, ih (by simpa using h), ← BitVec.xor_assoc x,
        BitVec.xor_comm x, BitVec.xor_assoc]

theorem exec_decode_ok_iff {raw p : List Byte} {s : State} :
    exec (.decode raw) s = .next { s with res := .ok (.bytes p) } ↔ decodeFrame raw = .ok p := by
  rw [exec_decode]
  cases decodeFrame raw <;> simp [Res.ofExcept]

section
variable {f p : List Byte} {k : Nat} {b c : Byte}

/-- A changed byte in the preamble is found by the first check. -/
theorem decodeFrame_set_preamble (hf : decodeFrame f = .ok p) (hb : f[k]? = some b) (hc : c ≠ b) (hk : k < 2) :
    decodeFrame (f.set k c) = .error (.invalidPreamble ((f.set k c).take 2)) := by
  obtain ⟨hpre, -⟩ := decodeFrame_eq_ok_iff.1 hf
  obtain ⟨hlen, -⟩ := List.getElem?_eq_some_iff.1 hb
  refine decodeFrame_of_badPreamble fun h => hc ?_
  have hset : (f.set k c)[k]? = f[k]? := by
    rw [← List.getElem?_take_of_lt hk, h, ← hpre, List.getElem?_take_of_lt hk]
  rwa [List.getElem?_set_self hlen, hb, Option.some_inj] at hset

/-- The decoder does not read the length byte. -/
theorem decodeFrame_set_lengthByte (hf : decodeFrame f = .ok p) (c : Byte) : decodeFrame (f.set 2 c) = .ok p := by
  rw [decodeFrame_eq_ok_iff] at hf ⊢
  rwa [List.take_set_of_le (Nat.le_refl 2), List.getElem?_set_ne (by decide), List.drop_set_of_lt (by decide)]

theorem decodeFrame_set_status (hf : decodeFrame f = .ok p) (hc : c ≠ 0x00#8) :
    decodeFrame (f.set 8 c) = .error (.deviceStatusError c) := by
  obtain ⟨hpre, h8, -⟩ := decodeFrame_eq_ok_iff.1 hf
  obtain ⟨hlen, -⟩ := List.getElem?_eq_some_iff.1 h8
  exact decodeFrame_of_badStatus (by rw [List.take_set_of_le (by decide), hpre]) (List.getElem?_set_self hlen) hc

/-- A changed byte behind the length byte changes the fold, which was zero. -/
theorem decodeFrame_set_summed (hf : decodeFrame f = .ok p) (hb : f[k]? = some b) (hc : c ≠ b) (hk : 3 ≤ k)
    (hk8 : k ≠ 8) : ∃ computed received, decodeFrame (f.set k c) = .error (.invalidChecksum computed received) := by
  obtain ⟨hpre, h8, hfold, -⟩ := decodeFrame_eq_ok_iff.1 hf
  have hat : (f.drop 3)[k - 3]? = some b := by rw [List.getElem?_drop, Nat.add_sub_cancel' hk, hb]
  have hne : (f.drop 3).set (k - 3) c ≠ [] := by
    obtain ⟨hlen, -⟩ := List.getElem?_eq_some_iff.1 hat
    exact List.ne_nil_of_length_pos (by rw [List.length_set]; omega)
  have hunbalanced : xorfold ((f.drop 3).set (k - 3) c) ≠ 0x00#8 := by
    rw [xorfold_set hat, hfold, BitVec.xor_zero]
    exact BitVec.xor_eq_zero_iff.not.2 hc
  have hsummed : decodeFrame (f.set k c) = checkSum ((f.drop 3).set (k - 3) c) := by
    rw [decodeFrame_of_okStatus (by rw [List.take_set_of_le (by omega), hpre]) (by rw [List.getElem?_set_ne hk8, h8]),
      List.drop_set, if_neg (by omega)]
  exact ⟨_, _, hsummed.trans (checkSum_of_ne ((checksum_passes_iff hne).not.2 hunbalanced))⟩

end

/-- Settles O28, one range of offsets after the other. -/
theorem singleBitFlipsAreReported : Obligations.SingleBitFlipsAreReported := by
  intro f p k j b s hdecode _ hb hj flipped
  have hf : decodeFrame f = .ok p := exec_decode_ok_iff.1 hdecode
  have hne : flipped ≠ b := xor_twoPow_ne hj
  refine ⟨_, exec_decode _ s, fun hk => ?_, fun hk => ?_, fun hk => ?_, fun hk hk8 => ?_⟩
  · exact ⟨_, by rw [decodeFrame_set_preamble hf hb hne hk]; rfl⟩
  · subst hk
    rw [decodeFrame_set_lengthByte hf]
    rfl
  · subst hk
    obtain ⟨-, h8, -⟩ := decodeFrame_eq_ok_iff.1 hf
    obtain rfl : b = 0x00#8 := by simpa [h8] using hb.symm
    rw [decodeFrame_set_status hf hne]
    rfl
  · obtain ⟨computed, received, he⟩ := decodeFrame_set_summed hf hb hne hk hk8
    exact ⟨computed, received, by rw [he]; rfl⟩

end Sys2Proof.Machine
end

section
/-! PROOFS. The single moves of READ_FRAME and EXCHANGE: the start, one read, the hand-over, the write and the decode
(spec/41_reader.md R113, R114; spec/43_exchange.md R140, R141, R143). -/

namespace Sys2Proof.Machine

/-! ## One call of the transport (R140) -/

section
variable {s : State}

theorem rxRead_closed (n : Nat) (h : s.tstate = .closed) : rxRead n s = (.fail .notOpen, s) := by
  simp [rxRead, h]

theorem rxRead_listed (n : Nat) {c : RxChoice} {more : List RxChoice} (ht : s.tstate = .opened)
    (hr : s.reads = c :: more) : rxRead n s = applyRead n c { s with reads := more } := by
  simp [rxRead, chooseRead, ht, hr]

/-- An unlisted read does what it does where the free choice of its draw is listed. -/
theorem rxRead_unlisted (n : Nat) (ht : s.tstate = .opened) (hr : s.reads = []) :
    rxRead n s = rxRead n { s with reads := [Config.freeRead s.draws], draws := s.draws + 1 } := by
  simp [rxRead, chooseRead, ht, hr]

theorem txWrite_closed (bs : List Byte) (h : s.tstate = .closed) : txWrite bs s = (.fail .notOpen, s) := by
  simp [txWrite, h]

theorem txWrite_listed (bs : List Byte) {c : TxChoice} {more : List TxChoice} (ht : s.tstate = .opened)
    (hw : s.writes = c :: more) : txWrite bs s = applyWrite bs c { s with writes := more } := by
  simp [txWrite, chooseWrite, ht, hw]

theorem txWrite_unlisted (bs : List Byte) (ht : s.tstate = .opened) (hw : s.writes = []) :
    txWrite bs s = txWrite bs { s with writes := [Config.freeWrite s.draws], draws := s.draws + 1 } := by
  simp [txWrite, chooseWrite, ht, hw]

/-! ## One iteration of the reader (R114) -/

/-- A data read appends the front of what waits and what arrives, and leaves the rest. -/
theorem readIteration_data {arrived : List Byte} {upTo : Nat} {more : List RxChoice} (ht : s.tstate = .opened)
    (hr : s.reads = .data arrived upTo :: more) :
    readIteration s = receive ((s.inbound ++ arrived).take (min upTo s.params.chunk))
      { s with inbound := (s.inbound ++ arrived).drop (min upTo s.params.chunk), reads := more } := by
  rw [readIteration, rxRead_listed _ ht hr]
  rfl

theorem receive_complete {bs : List Byte} (hc : complete (s.rbuf ++ bs) = true) :
    receive bs s = { s with rbuf := s.rbuf ++ bs, att := s.att + 1, rphase := .done } := by
  simp [receive, hc]

theorem receive_goes_on {bs : List Byte} (hc : complete (s.rbuf ++ bs) = false)
    (hm : s.att + 1 < s.params.maxAttempts) :
    receive bs s = { s with rbuf := s.rbuf ++ bs, att := s.att + 1 } := by
  simp [receive, hc, Nat.not_le.mpr hm]

theorem receive_spent {bs : List Byte} (hc : complete (s.rbuf ++ bs) = false)
    (hm : s.params.maxAttempts ≤ s.att + 1) :
    receive bs s = raiseReader (.readTimeout (s.att + 1) (s.rbuf ++ bs).length)
      { s with rbuf := s.rbuf ++ bs, att := s.att + 1 } := by
  simp [receive, hc, hm]

@[simp] theorem receive_rbuf (bs : List Byte) (s : State) : (receive bs s).rbuf = s.rbuf ++ bs := by
  rcases receive_cases bs s with ⟨-, he⟩ | ⟨-, -, he⟩ | ⟨-, -, he⟩ <;> simp [he]

@[simp] theorem receive_inbound (bs : List Byte) (s : State) : (receive bs s).inbound = s.inbound := by
  rcases receive_cases bs s with ⟨-, he⟩ | ⟨-, -, he⟩ | ⟨-, -, he⟩ <;> simp [he]

theorem readIteration_closed (h : s.tstate = .closed) :
    readIteration s = raiseReader (.transportError .notOpen) s := by
  rw [readIteration, rxRead_closed _ h]
  rfl

end

/-! ## READ_FRAME and READ_STEP -/

/-- Settles O29. -/
theorem readFrameStartsUnderLock : Obligations.ReadFrameStartsUnderLock := by
  intro s hl
  rw [exec_readFrame_start (by simp [hl])]
  rfl

/-- Settles O30: `XPHASE` is at `X_IDLE` already. -/
theorem readFrameHandsOverWholeBuffer : Obligations.ReadFrameHandsOverWholeBuffer := by
  intro s hl hx hr
  rw [exec_readFrame_done hl hr, returnOk, endOperation, ← hx]

/-- Settles O31: completion first, then the budget. -/
theorem readStepAppendsData : Obligations.ReadStepAppendsData := by
  intro s arrived upTo more hreading ht hr
  rw [exec_readStep_reading hreading, readIteration_data ht hr]
  exact ⟨fun hc => congrArg _ (receive_complete hc), fun hc hm => congrArg _ (receive_goes_on hc hm),
    fun hc hm => congrArg _ (receive_spent hc hm)⟩

/-- Settles O32, one failing outcome of the read after the other. -/
theorem readStepRaisesOnFailure : Obligations.ReadStepRaisesOnFailure := by
  intro s more hreading
  rw [exec_readStep_reading hreading]
  refine ⟨fun ht hr => ?_, fun reason ht hr => ?_, fun lost ht hr => ?_, fun ht => ?_⟩
  · rw [readIteration, rxRead_listed _ ht hr]
    rfl
  · rw [readIteration, rxRead_listed _ ht hr]
    rfl
  · rw [readIteration, rxRead_listed _ ht hr]
    rfl
  · rw [readIteration_closed ht]
    rfl

/-- Settles O33: either way the read applies the free choice of this draw. -/
theorem unlistedReadTakesFreeChoice : Obligations.UnlistedReadTakesFreeChoice := by
  intro s hreading hr ht
  have hlisted := exec_readStep_reading
    (s := { s with reads := [Config.freeRead s.draws], draws := s.draws + 1 }) hreading
  rw [exec_readStep_reading hreading, hlisted, readIteration, rxRead_unlisted _ ht hr]
  rfl

/-- Settles O34. -/
theorem readStepOnPortIsIllegal : Obligations.ReadStepOnPortIsIllegal :=
  fun _ h => exec_readStep_of_not_reading h

/-- Settles O35: what a read takes and what it leaves are the two parts of what there is. -/
theorem dataReadConservesBytes : Obligations.DataReadConservesBytes := by
  intro s t arrived upTo more hreading ht hr hexec
  rw [exec_readStep_reading hreading, readIteration_data ht hr, Host.Outcome.next.injEq] at hexec
  subst hexec
  refine ⟨?_, ?_⟩
  · simp only [receive_rbuf, receive_inbound, List.append_assoc, List.take_append_drop]
  · simp only [receive_rbuf, List.length_append, List.length_take]
    omega

/-! ## EXCHANGE -/

/-- Settles O39. -/
theorem exchangePhasesAdvance : Obligations.ExchangePhasesAdvance := by
  intro cmd segs s
  refine ⟨exec_exchange_idle cmd segs, fun f hx hf => ?_, fun hx hlong => ?_, fun hx hr => ?_⟩
  · rw [exec_exchange_encode _ _ hx, exchangeEncode_ok _ _ hf]
  · rw [exec_exchange_encode _ _ hx, exchangeEncode_error _ _ (encodeFrame_tooLarge cmd hlong)]
    rfl
  · rw [exec_exchange_read _ _ hx, exchangeRead_done hr]

/-- A closed transport ends an exchange at its write. -/
theorem exchangeWrite_closed {s : State} (h : s.tstate = .closed) :
    exchangeWrite s = raise (.transportError .notOpen) s := by
  rw [exchangeWrite, txWrite_closed _ h]
  rfl

/-- An accepted write starts the read. -/
theorem exchangeWrite_ok {s : State} {more : List TxChoice} (ht : s.tstate = .opened) (hw : s.writes = .ok :: more) :
    exchangeWrite s = beginRead { s with writes := more, outbound := s.outbound ++ s.txf, xphase := .read } := by
  rw [exchangeWrite, txWrite_listed _ ht hw]
  rfl

/-- Settles O40, one outcome of the write after the other. -/
theorem exchangeWritesFrameOnce : Obligations.ExchangeWritesFrameOnce := by
  intro cmd segs s more hx
  rw [exec_exchange_write _ _ hx]
  refine ⟨fun ht hw => ?_, fun reason sent ht hw => ?_, fun lost sent ht hw => ?_, fun ht hw => ?_, fun ht => ?_⟩
  · rw [exchangeWrite_ok ht hw]
    rfl
  · rw [exchangeWrite, txWrite_listed _ ht hw]
    rfl
  · rw [exchangeWrite, txWrite_listed _ ht hw]
    rfl
  · have hlisted := exec_exchange_write cmd segs
      (s := { s with writes := [Config.freeWrite s.draws], draws := s.draws + 1 }) hx
    rw [hlisted, exchangeWrite, txWrite_unlisted _ ht hw]
    rfl
  · rw [exchangeWrite_closed ht]
    rfl

/-- Settles O41: `LOCK` has been given back before the decode. -/
theorem exchangeDecodesBuffer : Obligations.ExchangeDecodesBuffer := by
  intro cmd segs s t hx hl hdecode
  rw [exec_decode, Host.Outcome.next.injEq] at hdecode
  subst hdecode
  rw [exec_exchange_decode _ _ hx, exchangeDecode_eq, endOperation, ← hl]

/-! ## The wire patterns (R82) -/

/-- Settles O46. -/
theorem recognisedPatternsChangeNothing : Obligations.RecognisedPatternsChangeNothing := by
  intro len cmd s
  have hpreamble : patternError (.wPreamble 0xAA#8 0xBB#8) s = none := by
    cases hraw : rawBuffer s <;> simp [patternError, hraw, preambleError, wirePreamble_fits]
  exact ⟨by simp [exec, execWPreamble, hpreamble], rfl, rfl, rfl, rfl⟩

theorem exec_wStatusErr (status : Byte) (s : State) :
    exec (.wStatusErr status) s = .next (raiseIfAny ((rawBuffer s).bind (statusError status)) s) := rfl

theorem exec_wPreamble (b0 b1 : Byte) (s : State) :
    exec (.wPreamble b0 b1) s = .next (raiseIfAny ((rawBuffer s).bind (preambleError b0 b1)) s) := rfl

theorem statusError_eq {status : Byte} (h : status ≠ 0x00#8) (raw : List Byte) :
    statusError status raw =
      if raw.take 2 = [0xAA#8, 0xBB#8] ∧ raw[8]? = some status then some (.deviceStatusError status) else none := by
  simp [statusError, wirePreamble_fits, h]

theorem preambleError_eq {b0 b1 : Byte} (h : [b0, b1] ≠ [0xAA#8, 0xBB#8]) (raw : List Byte) :
    preambleError b0 b1 raw = if raw.take 2 = [b0, b1] then some (.invalidPreamble [b0, b1]) else none := by
  simp only [preambleError, wirePreamble_fits, decide_eq_false h, and_true]

theorem raiseIfAny_ite (p : Prop) [Decidable p] (e : Error) (s : State) :
    raiseIfAny (if p then some e else none) s =
      if p then { s with res := .err e, lock := .free, xphase := .idle } else s := by
  split <;> rfl

/-- Settles O47: the error is that of the raw buffer, where there is one. -/
theorem failingPatternsRaise : Obligations.FailingPatternsRaise := by
  intro status b0 b1 s hstatus hpre
  refine ⟨fun raw hraw => ?_, fun hx hport => ?_⟩
  · have hbuffer := rawBuffer_eq_some.2 hraw
    rw [exec_wStatusErr, exec_wPreamble, hbuffer, Option.bind_some, Option.bind_some, statusError_eq hstatus,
      preambleError_eq hpre, raiseIfAny_ite, raiseIfAny_ite]
    exact ⟨rfl, rfl⟩
  · have hbuffer : rawBuffer s = none := by
      rw [Option.eq_none_iff_forall_ne_some]
      intro raw hraw
      rcases rawBuffer_eq_some.1 hraw with ⟨hd, -⟩ | ⟨hidle, r, rest, hp, hd⟩
      · exact hx hd
      · exact hport r rest raw hp hidle hd
    rw [exec_wStatusErr, exec_wPreamble, hbuffer]
    exact ⟨rfl, rfl⟩

/-- Settles O48: the window's error is the decoder's own, of the same buffer. -/
theorem patternErrorsAreTheDecoders : Obligations.PatternErrorsAreTheDecoders := by
  intro cmd segs status b0 b1 tail s hx
  have hbuffer : rawBuffer s = some s.rbuf := rawBuffer_eq_some.2 (.inl ⟨hx, rfl⟩)
  have hraises {e : Error} (he : decodeFrame s.rbuf = .error e) : exchangeDecode s = raise e s := by
    rw [exchangeDecode_eq, he]
    rfl
  rw [exec_exchange_decode _ _ hx]
  refine ⟨fun hpre h8 hstatus => ?_, fun hrbuf hpre => ?_⟩
  · rw [hraises (decodeFrame_of_badStatus hpre h8 hstatus), exec_wStatusErr, hbuffer, Option.bind_some,
      statusError_eq hstatus, if_pos ⟨hpre, h8⟩]
    rfl
  · have htake : s.rbuf.take 2 = [b0, b1] := by rw [hrbuf]; rfl
    rw [hraises (decodeFrame_of_badPreamble (htake ▸ hpre)), exec_wPreamble, hbuffer, Option.bind_some,
      preambleError_eq hpre, if_pos htake, htake]
    rfl

end Sys2Proof.Machine
end

section
/-! PROOFS. Whose turn it is and what a step then runs: the block, a window, the environment (spec/20_memory.md R54,
R57; spec/10_state.md R30, R32, R35; spec/41_reader.md R115). -/

namespace Sys2Proof.Machine

/-! ## The block's turn -/

/-- In the block's turn a step is its move, with the turn taken off. -/
theorem step_of_blockMoves {s : State} {ts : List Turn} (h : BlockMoves s ts) :
    step s = blockMove exec { s with turns := ts } := by
  obtain ⟨hv, ⟨hturns, rfl⟩ | hturns⟩ := h
  · have hnone : { s with turns := [] } = s := by rw [← hturns]
    rw [hnone, step_of_valid hv, hturns]
  · rw [step_of_valid hv, hturns]
    rfl

/-- Settles O3. -/
theorem stepRunsRequestAtPort : Obligations.StepRunsRequestAtPort := by
  intro s ts h hr
  rw [step_of_blockMoves h]
  refine ⟨fun r rest hport => ?_, fun hport => ?_⟩
  · have hi : nextInstr { s with turns := ts } = some (decodeRequest r) := nextInstr_of_port hr hport
    rw [blockMove_eq hi]
    rfl
  · have hi : nextInstr { s with turns := ts } = none := nextInstr_of_empty hr hport
    simp [blockMove, hi]

/-- Settles O4. -/
theorem stepRunsReadStepWhileReading : Obligations.StepRunsReadStepWhileReading := by
  intro s ts h hr
  have hi : nextInstr { s with turns := ts } = some .readStep := nextInstr_of_reading hr
  rw [step_of_blockMoves h, blockMove_eq hi]
  rfl

/-! ## The other turns -/

/-- Settles O5: a pattern without an error leaves the state, so only an error can retire a request. -/
theorem stepRunsWirePattern : Obligations.StepRunsWirePattern := by
  intro s w ts hv hturns
  rw [step_of_turn hv hturns]
  refine ⟨fun i hi => ?_, fun hnone => ?_⟩
  · have hexec := exec_of_window hi { s with turns := ts }
    cases he : patternError i { s with turns := ts } with
    | none => simp [takeTurn, windowMove, hi, he, hexec]
    | some e =>
      simp only [takeTurn, windowMove, hi, he, hexec, mapNext_next, ne_eq, reduceCtorEq, not_false_eq_true, true_and]
      rfl
  · simp [takeTurn, windowMove, hnone]

/-- Settles O55. -/
theorem payloadOfNoResultFaults : Obligations.PayloadOfNoResultFaults := by
  intro s ts hv hturns
  rw [step_of_turn hv hturns]
  cases s.res <;> simp [takeTurn, takePayload]

/-- Settles O56. -/
theorem heldRequestHasNoEffect : Obligations.HeldRequestHasNoEffect := by
  intro s r ahead ts hv hturns
  have hstep : step s = .next (issue r ahead { s with turns := ts }) := step_of_turn hv hturns
  rw [hstep]
  refine ⟨fun running waiting hidle hport => ?_, fun hidle => ?_⟩
  · rw [issue_of_busy (s := { s with turns := ts }) hidle, hport]
    rfl
  · rw [issue_of_idle (s := { s with turns := ts }) hidle]

/-- Settles O57. -/
theorem environmentMovesOnlyTransport : Obligations.EnvironmentMovesOnlyTransport := by
  intro s ts lost bs hv
  exact ⟨step_of_turn hv, step_of_turn hv, step_of_turn hv⟩

theorem not_valid_of_zero {p : Params} (h : p.maxAttempts = 0 ∨ p.chunk = 0) : p.valid = false := by
  rw [← Bool.not_eq_true]
  intro hv
  obtain ⟨hattempts, hchunk⟩ := valid_pos hv
  omega

/-- Settles O58. -/
theorem invalidInstanceIsRefused : Obligations.InvalidInstanceIsRefused := by
  intro s h
  exact if_neg (by simp [not_valid_of_zero h])

end Sys2Proof.Machine
end

section
/-! PROOFS. Whole operations while only the block moves: their first and last steps, the loop of the reader within its
budget, and how READ_FRAME and EXCHANGE end (spec/41_reader.md R113, R115, R121; spec/43_exchange.md R141, R142;
spec/60_exceptions.md R170). -/

namespace Sys2Proof.Machine

/-! ## Steps of the block alone -/

/-- Only the block moves, its parameters are valid, and `r` is the request it serves. -/
structure Serves (s : State) (r : Request) (rest : List Request) : Prop where
  valid : s.params.valid = true
  turns : s.turns = []
  port : s.port = r :: rest

theorem Serves.of_accepts {s : State} {r : Request} {rest : List Request} (ha : Accepts s r rest) :
    Serves s r rest := by
  obtain ⟨hv, -, hturns, hport⟩ := ha
  exact ⟨hv, hturns, hport⟩

theorem Serves.of_sameOperation {s t : State} {r : Request} {rest : List Request} (h : Serves s r rest)
    (hop : SameOperation s t) : Serves t r rest :=
  ⟨hop.params ▸ h.valid, hop.turns.trans h.turns, hop.port.trans h.port⟩

/-- An accepted request finds `LOCK` free, and `XPHASE` at `X_IDLE`. -/
theorem free_and_idle_of_accepts {s : State} {r : Request} {rest : List Request} (ha : Accepts s r rest) :
    s.lock = .free ∧ s.xphase = .idle := by
  obtain ⟨-, hidle, -, -⟩ := ha
  obtain ⟨hx, hl, -⟩ := (isIdle_iff s).1 hidle
  exact ⟨hl, hx⟩

/-- Under `LOCK` an operation is under way. -/
theorem busy_of_held {s : State} (h : s.lock = .held) : ¬ s.isIdle = true := by
  simp [isIdle_iff, h]

theorem runSteps_of_step {s t : State} (h : step s = .next t) (n : Nat) : runSteps (n + 1) s = runSteps n t := by
  rw [runSteps_succ, h]

theorem runSteps_trans {m n : Nat} {s t u : State} (hst : runSteps m s = .next t) (htu : runSteps n t = .next u) :
    runSteps (m + n) s = .next u :=
  (runSteps_add hst).trans htu

theorem runSteps_one {s t : State} (h : step s = .next t) : runSteps 1 s = .next t := by
  rw [runSteps_of_step h, runSteps_zero]

section
variable {s t : State} {r : Request} {rest : List Request}

/-- A request whose instruction leaves the block busy stays at the port. -/
theorem step_of_busy (hs : Serves s r rest) (hr : s.rphase ≠ .reading) (he : exec (decodeRequest r) s = .next t)
    (ht : ¬ t.isIdle = true) : step s = .next t := by
  rw [step_port hs.valid hs.turns hr hs.port, he, mapNext_next, retireIfEnded_of_busy ht]

/-- A request whose instruction leaves the block idle has been answered. -/
theorem step_of_idle (hs : Serves s r rest) (hr : s.rphase ≠ .reading) (he : exec (decodeRequest r) s = .next t)
    (ht : t.isIdle = true) : step s = .next (retire t) := by
  rw [step_port hs.valid hs.turns hr hs.port, he, mapNext_next, retireIfEnded_of_idle ht]

/-! ## The first and the last steps of READ_FRAME -/

theorem step_readFrame_starts (ha : Accepts s r rest) (hd : decodeRequest r = .readFrame) :
    step s = .next (beginRead { s with lock := .held }) := by
  obtain ⟨hl, -⟩ := free_and_idle_of_accepts ha
  exact step_of_busy (.of_accepts ha) (not_reading_of_accepts ha) (by rw [hd, exec_readFrame_start (by simp [hl])])
    (busy_of_held rfl)

theorem step_readFrame_returns (hs : Serves s r rest) (hd : decodeRequest r = .readFrame) (hl : s.lock = .held)
    (hr : s.rphase = .done) :
    step s = .next { s with res := .ok (.bytes s.rbuf), lock := .free, xphase := .idle, port := rest } := by
  have hreader : s.rphase ≠ .reading := by simp [hr]
  have hexec : exec (decodeRequest r) s = .next (returnOk (.bytes s.rbuf) s) := by rw [hd, exec_readFrame_done hl hr]
  rw [step_of_idle hs hreader hexec ((isIdle_iff _).2 ⟨rfl, rfl, hreader⟩), retire, returnOk_port, hs.port]
  rfl

/-! ## The first and the last steps of EXCHANGE -/

section
variable {cmd : Half} {segs : List (List Byte)}

theorem step_exchange_starts (ha : Accepts s r rest) (hd : decodeRequest r = .exchange cmd segs) :
    step s = .next { s with xphase := .encode } := by
  obtain ⟨-, hx⟩ := free_and_idle_of_accepts ha
  exact step_of_busy (.of_accepts ha) (not_reading_of_accepts ha) (by rw [hd, exec_exchange_idle _ _ hx])
    (by simp [isIdle_iff])

/-- Two steps take an exchange to its write, with the frame in `TXF` and under `LOCK`. -/
theorem runSteps_exchange_to_write (ha : Accepts s r rest) (hd : decodeRequest r = .exchange cmd segs) {f : List Byte}
    (hf : encodeFrame cmd segs = .ok f) :
    runSteps 2 s = .next { s with txf := f, lock := .held, xphase := .write } := by
  have hs := Serves.of_accepts ha
  have hr := not_reading_of_accepts ha
  have hexec : exec (decodeRequest r) { s with xphase := .encode } =
      .next { s with txf := f, lock := .held, xphase := .write } := by
    rw [hd, exec_exchange_encode _ _ rfl, exchangeEncode_ok _ _ hf]
  have hs' : Serves { s with xphase := .encode } r rest := ⟨hs.valid, hs.turns, hs.port⟩
  have hencode := step_of_busy hs' hr hexec (busy_of_held rfl)
  rw [runSteps_of_step (step_exchange_starts ha hd), runSteps_one hencode]

/-- Two steps end an exchange whose frame cannot be built. -/
theorem runSteps_exchange_refused (ha : Accepts s r rest) (hd : decodeRequest r = .exchange cmd segs) {e : Error}
    (he : encodeFrame cmd segs = .error e) :
    runSteps 2 s = .next { s with res := .err e, port := rest } := by
  have hs := Serves.of_accepts ha
  have hr := not_reading_of_accepts ha
  obtain ⟨hl, hx⟩ := free_and_idle_of_accepts ha
  have hexec : exec (decodeRequest r) { s with xphase := .encode } = .next (raise e { s with xphase := .encode }) := by
    rw [hd, exec_exchange_encode _ _ rfl, exchangeEncode_error _ _ he]
  have hs' : Serves { s with xphase := .encode } r rest := ⟨hs.valid, hs.turns, hs.port⟩
  have hencode := step_of_idle hs' hr hexec ((isIdle_iff _).2 ⟨rfl, rfl, hr⟩)
  rw [runSteps_of_step (step_exchange_starts ha hd), runSteps_one hencode]
  simp [retire, raise, endOperation, hl, hx, hs.port]

/-- Two steps take an exchange from its complete read to its result. -/
theorem runSteps_exchange_decodes (hs : Serves s r rest) (hd : decodeRequest r = .exchange cmd segs)
    (hx : s.xphase = .read) (hr : s.rphase = .done) :
    runSteps 2 s = .next { s with
      res := .ofExcept .bytes (decodeFrame s.rbuf), lock := .free, xphase := .idle, port := rest } := by
  have hreader : s.rphase ≠ .reading := by simp [hr]
  have hrelease : step s = .next { s with lock := .free, xphase := .decode } :=
    step_of_busy hs hreader (by rw [hd, exec_exchange_read _ _ hx, exchangeRead_done hr]) (by simp [isIdle_iff])
  have hexec : exec (decodeRequest r) { s with lock := .free, xphase := .decode } =
      .next (endOperation (.ofExcept .bytes (decodeFrame s.rbuf)) { s with lock := .free, xphase := .decode }) := by
    rw [hd, exec_exchange_decode _ _ rfl, exchangeDecode_eq]
  have hs' : Serves { s with lock := .free, xphase := .decode } r rest := ⟨hs.valid, hs.turns, hs.port⟩
  have hdecode := step_of_idle hs' hreader hexec ((isIdle_iff _).2 ⟨rfl, rfl, hreader⟩)
  rw [runSteps_of_step hrelease, runSteps_one hdecode, retire, endOperation_port, hs.port]
  rfl

end

end

/-- Settles O44: no frame, so no `LOCK` and no transport call. -/
theorem overlongExchangeTouchesNothing : Obligations.OverlongExchangeTouchesNothing :=
  fun _ _ _ cmd _ ha hd hlong => runSteps_exchange_refused ha hd (encodeFrame_tooLarge cmd hlong)

/-! ## The loop of the reader -/

/-- A read under way, under `LOCK`, for the request at the head of the port. -/
structure Reading (s : State) (r : Request) (rest : List Request) : Prop extends Serves s r rest where
  lock : s.lock = .held
  rphase : s.rphase = .reading
  reader : ReaderInv s

theorem Reading.of_beginRead {s : State} {r : Request} {rest : List Request} (hs : Serves s r rest)
    (hl : s.lock = .held) : Reading (beginRead s) r rest :=
  ⟨⟨hs.valid, hs.turns, hs.port⟩, hl, rfl, readerInv_beginRead hs.valid⟩

/-- No read fails with an I/O error before the budget is spent (R121). -/
def NoIoFailures (s : State) : Prop :=
  s.tstate = .opened ∧ s.params.maxAttempts ≤ s.att + s.reads.length ∧ ∀ c ∈ s.reads, RxChoice.noIoFailure c = true

/-- A READ_FRAME that has ended for want of bytes, within `limit` reads (R121). -/
def TimedOut (limit : Nat) (t : State) : Prop :=
  complete t.rbuf = false ∧ t.att ≤ limit ∧ t.res = .err (.readTimeout t.att t.rbuf.length)

theorem timedOut_raiseReader {s : State} {limit : Nat} (hc : complete s.rbuf = false) (hatt : s.att ≤ limit) :
    TimedOut limit (raiseReader (.readTimeout s.att s.rbuf.length) s) :=
  ⟨hc, hatt, rfl⟩

/-- Where data is received, the budget alone makes the reader fail. -/
theorem receive_timesOut_or_goes_on {s : State} (bs : List Byte) (hr : s.rphase = .reading)
    (hatt : s.att < s.params.maxAttempts) (ht : s.tstate = .opened)
    (hlen : s.params.maxAttempts ≤ s.att + 1 + s.reads.length) (hall : ∀ c ∈ s.reads, RxChoice.noIoFailure c = true) :
    ((receive bs s).rphase = .failed → TimedOut s.params.maxAttempts (receive bs s)) ∧
      ((receive bs s).rphase = .reading → NoIoFailures (receive bs s)) := by
  rcases receive_cases bs s with ⟨-, he⟩ | ⟨hc, -, he⟩ | ⟨-, -, he⟩ <;> rw [he]
  · exact ⟨nofun, nofun⟩
  · exact ⟨fun _ => timedOut_raiseReader (s := { s with rbuf := s.rbuf ++ bs, att := s.att + 1 }) hc hatt, nofun⟩
  · exact ⟨fun hfailed => by simp [hr] at hfailed, fun _ => ⟨ht, hlen, hall⟩⟩

/-- Without an I/O failure the reader fails by a timeout alone, and goes on without one. -/
theorem readIteration_timesOut_or_goes_on {s : State} (h : NoIoFailures s) (hr : s.rphase = .reading)
    (hreader : ReaderInv s) :
    ((readIteration s).rphase = .failed → TimedOut s.params.maxAttempts (readIteration s)) ∧
      ((readIteration s).rphase = .reading → NoIoFailures (readIteration s)) := by
  obtain ⟨ht, hlen, hall⟩ := h
  have hatt := hreader.att_reading hr
  cases hreads : s.reads with
  | nil =>
    rw [hreads, List.length_nil] at hlen
    omega
  | cons c more =>
    rw [hreads, List.length_cons] at hlen
    obtain ⟨hc, hmore⟩ := List.forall_mem_cons.1 (hreads ▸ hall)
    cases c with
    | timeout =>
      have he : readIteration s = raiseReader (.readTimeout s.att s.rbuf.length) { s with reads := more } := by
        rw [readIteration, rxRead_listed _ ht hreads]
        rfl
      rw [he]
      exact ⟨fun _ => timedOut_raiseReader (s := { s with reads := more }) (hreader.reading_incomplete hr) hatt.le,
        nofun⟩
    | data arrived upTo =>
      rw [readIteration_data ht hreads]
      exact receive_timesOut_or_goes_on _ hr hatt ht (by simp only; omega) hmore
    | fail | closes => simp [RxChoice.noIoFailure] at hc

/-- How a read ends: its frame complete and the operation under way, or failed and the request answered. -/
def ReadEnds (s t : State) : Prop :=
  (SameOperation s t ∧ t.rphase = .done ∧ complete t.rbuf = true) ∨
    (t.isIdle = true ∧ t.rphase = .failed ∧ t.port = s.port.tail ∧ (∃ e, t.res = .err e) ∧
      (NoIoFailures s → TimedOut s.params.maxAttempts t))

/-- The loop of the reader ends within what is left of its budget, whatever the transport answers. -/
theorem reading_ends {s : State} {r : Request} {rest : List Request} (h : Reading s r rest) :
    ∃ n t, 1 ≤ n ∧ n + s.att ≤ s.params.maxAttempts ∧ runSteps n s = .next t ∧ ReadEnds s t := by
  induction hk : s.params.maxAttempts - s.att generalizing s with
  | zero =>
    have hatt := h.reader.att_reading h.rphase
    omega
  | succ k ih =>
    have hatt := h.reader.att_reading h.rphase
    have hreader := h.reader.readIteration h.rphase
    have hquiet (hq : NoIoFailures s) := readIteration_timesOut_or_goes_on hq h.rphase h.reader
    have hstep := step_reading h.valid h.turns h.rphase
    obtain ⟨u, hop, ⟨e, he⟩ | ⟨he, hphase⟩⟩ := readIteration_ends_or_goes_on s <;> rw [he] at hstep hreader hquiet
    · rw [retireIfEnded_of_idle (raiseReader_isIdle u e)] at hstep
      exact ⟨1, _, Nat.le_refl 1, by omega, runSteps_one hstep,
        .inr ⟨rfl, rfl, congrArg List.tail hop.port, ⟨e, rfl⟩, fun hq => (hquiet hq).1 rfl⟩⟩
    · have hheld : u.lock = .held := hop.lock.trans h.lock
      rw [retireIfEnded_of_busy (busy_of_held hheld)] at hstep
      rcases hphase with hdone | ⟨hreading, hatt'⟩
      · exact ⟨1, u, Nat.le_refl 1, by omega, runSteps_one hstep, .inl ⟨hop, hdone, hreader.done_complete hdone⟩⟩
      · have hu : Reading u r rest := ⟨h.of_sameOperation hop, hheld, hreading.trans h.rphase, hreader⟩
        obtain ⟨n, t, hn, hle, hrun, hends⟩ := ih hu (by rw [hop.params]; omega)
        rw [hop.params] at hle
        refine ⟨n + 1, t, by omega, by omega, by rw [runSteps_of_step hstep, hrun], ?_⟩
        rcases hends with ⟨hop', hdone, hc⟩ | ⟨hidle, hfailed, hport, herr, htimed⟩
        · exact .inl ⟨hop.trans hop', hdone, hc⟩
        · exact .inr ⟨hidle, hfailed, hop.port ▸ hport, herr, fun hq => hop.params ▸ htimed ((hquiet hq).2 hu.rphase)⟩

/-! ## How READ_FRAME and EXCHANGE end -/

/-- READ_FRAME is one step to start, the loop, and one step to return where the frame is complete. -/
theorem readFrame_ends {s : State} {r : Request} {rest : List Request} (ha : Accepts s r rest)
    (hd : decodeRequest r = .readFrame) :
    ∃ n t, 1 ≤ n ∧ n ≤ s.params.maxAttempts ∧ t.isIdle = true ∧ t.port = rest ∧
      ((runSteps (n + 2) s = .next t ∧ t.rphase = .done ∧ t.res = .ok (.bytes t.rbuf) ∧ complete t.rbuf = true) ∨
        (runSteps (n + 1) s = .next t ∧ t.rphase = .failed ∧ (∃ e, t.res = .err e) ∧
          (NoIoFailures (beginRead { s with lock := .held }) → TimedOut s.params.maxAttempts t))) := by
  have hs := Serves.of_accepts ha
  have hstart := step_readFrame_starts ha hd
  have hreads : Reading (beginRead { s with lock := .held }) r rest := .of_beginRead ⟨hs.valid, hs.turns, hs.port⟩ rfl
  obtain ⟨n, t, hn, hle, hrun, hends⟩ := reading_ends hreads
  have hrun' : runSteps (n + 1) s = .next t := by rw [runSteps_of_step hstart, hrun]
  rcases hends with ⟨hop, hdone, hc⟩ | ⟨hidle, hfailed, hport, herr, htimed⟩
  · have hreturn := step_readFrame_returns (hreads.of_sameOperation hop) hd (hop.lock.trans rfl) hdone
    refine ⟨n, { t with res := .ok (.bytes t.rbuf), lock := .free, xphase := .idle, port := rest }, hn, hle,
      (isIdle_iff _).2 ⟨rfl, rfl, by simp [hdone]⟩, rfl, .inl ⟨?_, hdone, rfl, hc⟩⟩
    exact runSteps_trans (m := n + 1) hrun' (runSteps_one hreturn)
  · refine ⟨n, t, hn, hle, hidle, ?_, .inr ⟨hrun', hfailed, herr, htimed⟩⟩
    rw [hport, hreads.port, List.tail_cons]

/-- Settles O37. -/
theorem readFrameEndsWithinBudget : Obligations.ReadFrameEndsWithinBudget := by
  intro s r rest ha hd
  obtain ⟨n, t, hn, hle, hidle, hport, hends⟩ := readFrame_ends ha hd
  refine ⟨n, t, hn, hle, ?_, hidle, hport⟩
  rcases hends with hdone | ⟨hrun, hfailed, herr, -⟩
  · exact .inl hdone
  · exact .inr ⟨hrun, hfailed, herr⟩

/-- Settles O38: a loop without I/O failures fails by a timeout alone. -/
theorem readFrameTimesOutWithoutIoFailure : Obligations.ReadFrameTimesOutWithoutIoFailure := by
  intro s r rest ha hd ht hlen hall
  obtain ⟨n, t, -, hle, hidle, hport, ⟨hrun, -, hres, hc⟩ | ⟨hrun, -, -, htimed⟩⟩ := readFrame_ends ha hd
  · exact ⟨n + 2, t, by omega, hrun, hidle, hport, .inl ⟨hc, hres⟩⟩
  · have hquiet : NoIoFailures (beginRead { s with lock := .held }) :=
      ⟨ht, by simpa using hlen, hall⟩
    obtain ⟨hc, hatt, hres⟩ := htimed hquiet
    exact ⟨n + 1, t, by omega, hrun, hidle, hport, .inr ⟨hc, hatt, hres⟩⟩

/-- The write of an exchange starts the read, or ends the exchange. -/
theorem step_exchange_writes {s : State} {r : Request} {rest : List Request} {cmd : Half} {segs : List (List Byte)}
    (hs : Serves s r rest) (hd : decodeRequest r = .exchange cmd segs) (hx : s.xphase = .write) (hl : s.lock = .held)
    (hr : s.rphase ≠ .reading) :
    ∃ t, step s = .next t ∧ t.params = s.params ∧
      ((Reading t r rest ∧ t.att = 0 ∧ t.xphase = .read) ∨
        (t.isIdle = true ∧ t.port = rest ∧ ∃ e, t.res = .err e)) := by
  obtain ⟨hsame, -⟩ := txWrite_cases s.txf s
  have hop := hsame.sameOperation
  have hrphase := hsame.rphase_eq
  have hs' := hs.of_sameOperation hop
  have hexec : exec (decodeRequest r) s = .next (exchangeWrite s) := by rw [hd, exec_exchange_write _ _ hx]
  rcases exchangeWrite_cases s with ⟨-, he⟩ | ⟨reason, -, he⟩ <;> rw [he] at hexec
  · have hreads : Reading (beginRead { (txWrite s.txf s).2 with xphase := .read }) r rest :=
      .of_beginRead ⟨hs'.valid, hs'.turns, hs'.port⟩ (hop.lock.trans hl)
    exact ⟨_, step_of_busy hs hr hexec (busy_of_held hreads.lock), hop.params, .inl ⟨hreads, rfl, rfl⟩⟩
  · refine ⟨_, step_of_idle hs hr hexec ((isIdle_iff _).2 ⟨rfl, rfl, by simpa [hrphase]⟩), hop.params,
      .inr ⟨(isIdle_iff _).2 ⟨rfl, rfl, by simpa [hrphase]⟩, ?_, _, rfl⟩⟩
    rw [retire_port, raise_port, hs'.port, List.tail_cons]

/-- From the start of its read an exchange ends within the reader's budget and two steps more. -/
theorem exchange_ends_from_read {s : State} {r : Request} {rest : List Request} {cmd : Half} {segs : List (List Byte)}
    (h : Reading s r rest) (hd : decodeRequest r = .exchange cmd segs) (hx : s.xphase = .read) :
    ∃ n t, n + s.att ≤ s.params.maxAttempts + 2 ∧ runSteps n s = .next t ∧ t.isIdle = true ∧ t.port = rest ∧
      t.res ≠ .none := by
  obtain ⟨n, t, -, hle, hrun, ⟨hop, hdone, -⟩ | ⟨hidle, -, hport, ⟨e, herr⟩, -⟩⟩ := reading_ends h
  · have hdecodes := runSteps_exchange_decodes (h.of_sameOperation hop) hd (hop.xphase.trans hx) hdone
    exact ⟨n + 2, _, by omega, runSteps_trans hrun hdecodes, (isIdle_iff _).2 ⟨rfl, rfl, by simp [hdone]⟩, rfl,
      ofExcept_ne_none _ _⟩
  · exact ⟨n, t, by omega, hrun, hidle, by rw [hport, h.port, List.tail_cons], by simp [herr]⟩

/-- Settles O43: the encode, the write, the loop and the decode each end, whatever the transport answers. -/
theorem exchangeEndsWithinBudget : Obligations.ExchangeEndsWithinBudget := by
  intro s r rest cmd segs ha hd
  have hs := Serves.of_accepts ha
  suffices h : ∃ n t, n ≤ s.params.maxAttempts + 5 ∧ runSteps n s = .next t ∧ t.isIdle = true ∧ t.port = rest ∧
      t.res ≠ .none by
    obtain ⟨n, t, hle, hrun, hidle, hport, hres⟩ := h
    obtain ⟨-, hl, -⟩ := (isIdle_iff t).1 hidle
    exact ⟨n, t, hle, hrun, hidle, hl, hport, hres⟩
  cases hf : encodeFrame cmd segs with
  | error e =>
    have hrefused := runSteps_exchange_refused ha hd hf
    obtain ⟨-, hidle, -, -⟩ := ha
    exact ⟨2, _, by omega, hrefused, hidle, rfl, by simp⟩
  | ok f =>
    have hwrite := runSteps_exchange_to_write ha hd hf
    have hs' : Serves { s with txf := f, lock := .held, xphase := .write } r rest := ⟨hs.valid, hs.turns, hs.port⟩
    have hr := not_reading_of_accepts ha
    obtain ⟨t, hstep, hparams, ⟨hreads, hatt, hx⟩ | ⟨hidle, hport, e, herr⟩⟩ :=
      step_exchange_writes hs' hd rfl rfl hr
    · obtain ⟨n, u, hle, hrun, hidle, hport, hres⟩ := exchange_ends_from_read hreads hd hx
      rw [hparams, hatt] at hle
      exact ⟨2 + 1 + n, u, by simp only at hle; omega, runSteps_trans (runSteps_trans hwrite (runSteps_one hstep)) hrun,
        hidle, hport, hres⟩
    · exact ⟨2 + 1, t, by omega, runSteps_trans hwrite (runSteps_one hstep), hidle, hport, by simp [herr]⟩

/-! ## A closed transport (R170) -/

/-- Settles O45: the first call of the transport fails. -/
theorem closedTransportEndsOperations : Obligations.ClosedTransportEndsOperations := by
  intro s r rest ha ht
  have hs := Serves.of_accepts ha
  obtain ⟨hl, hx⟩ := free_and_idle_of_accepts ha
  have hr := not_reading_of_accepts ha
  refine ⟨fun cmd segs f hd hf => ?_, fun hd => ?_⟩
  · have hs' : Serves { s with txf := f, lock := .held, xphase := .write } r rest := ⟨hs.valid, hs.turns, hs.port⟩
    have hexec : exec (decodeRequest r) { s with txf := f, lock := .held, xphase := .write } =
        .next (raise (.transportError .notOpen) { s with txf := f, lock := .held, xphase := .write }) := by
      rw [hd, exec_exchange_write _ _ rfl, exchangeWrite_closed (by exact ht)]
    have hwrite := step_of_idle hs' hr hexec ((isIdle_iff _).2 ⟨rfl, rfl, hr⟩)
    rw [runSteps_trans (runSteps_exchange_to_write ha hd hf) (runSteps_one hwrite)]
    simp [retire, raise, endOperation, hl, hx, hs.port]
  · have hreads : Reading (beginRead { s with lock := .held }) r rest :=
      .of_beginRead ⟨hs.valid, hs.turns, hs.port⟩ rfl
    have hread := step_reading hreads.valid hreads.turns hreads.rphase
    rw [readIteration_closed (by exact ht), retireIfEnded_of_idle (raiseReader_isIdle _ _)] at hread
    rw [runSteps_of_step (step_readFrame_starts ha hd), runSteps_one hread]
    simp [retire, raiseReader, raise, endOperation, beginRead, hl, hx, hs.port]

end Sys2Proof.Machine
end

section
/-! PROOFS. Reads that all return data: the pieces join to the stream, however it was split, and READ_FRAME and EXCHANGE
end with what has been read when the frame is complete (spec/41_reader.md R117; spec/43_exchange.md R141;
spec/20_memory.md R51). -/

namespace Sys2Proof.Machine

/-! ## What a series of data reads takes and leaves -/

/-- The bytes that these reads return together, with `waiting` unread before them. -/
def streamTaken (limit : Nat) (waiting : List Byte) (ds : List DataRead) : List Byte :=
  (waiting ++ arrivals ds).take (bytesTaken limit waiting.length ds)

/-- The bytes that these reads leave unread. -/
def streamLeft (limit : Nat) (waiting : List Byte) (ds : List DataRead) : List Byte :=
  (waiting ++ arrivals ds).drop (bytesTaken limit waiting.length ds)

section
variable (limit : Nat) (waiting : List Byte) (d : DataRead) (ds es : List DataRead)

@[simp] theorem streamTaken_nil : streamTaken limit waiting [] = [] := by
  simp [streamTaken]

@[simp] theorem streamLeft_nil : streamLeft limit waiting [] = waiting := by
  simp [streamLeft]

theorem bytesTaken_singleton :
    bytesTaken limit waiting.length [d] = min (min d.2 limit) (waiting ++ d.1).length := by
  simp [bytesTaken]

/-- One read takes the front of what waits and what arrives. -/
theorem streamTaken_singleton : streamTaken limit waiting [d] = (waiting ++ d.1).take (min d.2 limit) := by
  rw [streamTaken, bytesTaken_singleton, arrivals_cons, arrivals_nil, List.append_nil, ← List.take_eq_take_min]

theorem streamLeft_singleton : streamLeft limit waiting [d] = (waiting ++ d.1).drop (min d.2 limit) := by
  rw [streamLeft, bytesTaken_singleton, arrivals_cons, arrivals_nil, List.append_nil]
  rcases Nat.le_total (min d.2 limit) (waiting ++ d.1).length with h | h
  · rw [Nat.min_eq_left h]
  · rw [Nat.min_eq_right h, List.drop_length, List.drop_eq_nil_of_le h]

theorem bytesTaken_cons : bytesTaken limit waiting.length (d :: ds) =
    bytesTaken limit waiting.length [d] + bytesTaken limit (streamLeft limit waiting [d]).length ds := by
  have hleft : (streamLeft limit waiting [d]).length =
      waiting.length + d.1.length - min (min d.2 limit) (waiting.length + d.1.length) := by
    rw [streamLeft_singleton, List.length_drop, List.length_append]
    omega
  rw [hleft]
  rfl

theorem bytesTaken_singleton_le : bytesTaken limit waiting.length [d] ≤ (waiting ++ d.1).length := by
  rw [bytesTaken_singleton]
  exact Nat.min_le_right _ _

/-- Reads one after the other take the pieces of the stream in order. -/
theorem streamTaken_cons :
    streamTaken limit waiting (d :: ds) =
      streamTaken limit waiting [d] ++ streamTaken limit (streamLeft limit waiting [d]) ds := by
  have hle := bytesTaken_singleton_le limit waiting d
  rw [streamTaken, bytesTaken_cons, arrivals_cons, ← List.append_assoc, List.take_add,
    List.take_append_of_le_length hle, List.drop_append_of_le_length hle, streamTaken, streamTaken, streamLeft,
    arrivals_cons, arrivals_nil, List.append_nil]

theorem streamLeft_cons :
    streamLeft limit waiting (d :: ds) = streamLeft limit (streamLeft limit waiting [d]) ds := by
  have hle := bytesTaken_singleton_le limit waiting d
  rw [streamLeft, bytesTaken_cons, arrivals_cons, ← List.append_assoc, ← List.drop_drop,
    List.drop_append_of_le_length hle, streamLeft, streamLeft, arrivals_cons, arrivals_nil, List.append_nil]

theorem streamTaken_append :
    streamTaken limit waiting (ds ++ es) =
      streamTaken limit waiting ds ++ streamTaken limit (streamLeft limit waiting ds) es := by
  induction ds generalizing waiting with
  | nil => simp
  | cons d ds ih =>
    rw [List.cons_append, streamTaken_cons, ih, streamTaken_cons limit waiting d ds, streamLeft_cons limit waiting d ds,
      List.append_assoc]

theorem streamLeft_append :
    streamLeft limit waiting (ds ++ es) = streamLeft limit (streamLeft limit waiting ds) es := by
  induction ds generalizing waiting with
  | nil => simp
  | cons d ds ih => rw [List.cons_append, streamLeft_cons, ih, streamLeft_cons limit waiting d ds]

/-- What arrives later does not change what has been taken. -/
theorem streamTaken_eq_take_append :
    streamTaken limit waiting ds = (waiting ++ arrivals (ds ++ es)).take (bytesTaken limit waiting.length ds) := by
  have hle : bytesTaken limit waiting.length ds ≤ (waiting ++ arrivals ds).length := by
    rw [List.length_append]
    exact bytesTaken_le limit waiting.length ds
  rw [arrivals_append, ← List.append_assoc, List.take_append_of_le_length hle, streamTaken]

end

/-! ## The loop over data reads -/

theorem incomplete_of_append {bs cs : List Byte} (h : complete (bs ++ cs) = false) : complete bs = false := by
  cases hc : complete bs with
  | false => rfl
  | true => exact absurd (completenessIsNeverLost bs cs hc) (by simp [h])

section
variable {s : State} {r : Request} {rest : List Request} {more : List RxChoice}

/-- The state of a read after these data reads, its frame still incomplete. -/
def afterReads (ds : List DataRead) (more : List RxChoice) (s : State) : State :=
  { s with
    rbuf := s.rbuf ++ streamTaken s.params.chunk s.inbound ds
    att := s.att + ds.length
    inbound := streamLeft s.params.chunk s.inbound ds
    reads := more }

/-- The state of a read whose frame has become complete. -/
def completed (s : State) : State := { s with rphase := .done }

/-- One data read, as the last of a series. -/
theorem readIteration_dataRead {d : DataRead} (ht : s.tstate = .opened) (hreads : s.reads = dataReads [d] ++ more) :
    readIteration s = receive (streamTaken s.params.chunk s.inbound [d])
      { s with inbound := streamLeft s.params.chunk s.inbound [d], reads := more } := by
  rw [streamTaken_singleton, streamLeft_singleton]
  exact readIteration_data ht hreads

@[simp] theorem afterReads_nil (s : State) : afterReads [] s.reads s = s := by
  simp only [afterReads, streamTaken_nil, streamLeft_nil, List.append_nil, List.length_nil, Nat.add_zero]

theorem afterReads_append (ds es : List DataRead) (m more : List RxChoice) (s : State) :
    afterReads es more (afterReads ds m s) = afterReads (ds ++ es) more s := by
  simp only [afterReads, streamTaken_append, streamLeft_append, List.append_assoc, List.length_append, Nat.add_assoc]

theorem sameOperation_afterReads (ds : List DataRead) (more : List RxChoice) (s : State) :
    SameOperation s (afterReads ds more s) :=
  ⟨rfl, rfl, rfl, rfl, rfl, rfl, rfl⟩

section
variable {d : DataRead} (h : Reading s r rest) (ht : s.tstate = .opened) (hreads : s.reads = dataReads [d] ++ more)
include h ht hreads

/-- A data read that neither completes the frame nor spends the budget. -/
theorem step_dataRead_goes_on (hc : complete (s.rbuf ++ streamTaken s.params.chunk s.inbound [d]) = false)
    (hm : s.att + 1 < s.params.maxAttempts) :
    step s = .next (afterReads [d] more s) ∧ Reading (afterReads [d] more s) r rest := by
  have he : readIteration s = afterReads [d] more s := (readIteration_dataRead ht hreads).trans (receive_goes_on hc hm)
  have hreader := h.reader.readIteration h.rphase
  have hstep := step_reading h.valid h.turns h.rphase
  rw [he] at hreader hstep
  have hgoes : Reading (afterReads [d] more s) r rest :=
    ⟨h.of_sameOperation (sameOperation_afterReads [d] more s), h.lock, h.rphase, hreader⟩
  rw [retireIfEnded_of_busy (busy_of_held hgoes.lock)] at hstep
  exact ⟨hstep, hgoes⟩

theorem step_dataRead_completes (hc : complete (s.rbuf ++ streamTaken s.params.chunk s.inbound [d]) = true) :
    step s = .next (completed (afterReads [d] more s)) := by
  have he : readIteration s = completed (afterReads [d] more s) :=
    (readIteration_dataRead ht hreads).trans (receive_complete hc)
  have hbusy : ¬ (completed (afterReads [d] more s)).isIdle = true := busy_of_held h.lock
  rw [step_reading h.valid h.turns h.rphase, he, retireIfEnded_of_busy hbusy]

theorem step_dataRead_spent (hc : complete (s.rbuf ++ streamTaken s.params.chunk s.inbound [d]) = false)
    (hm : s.params.maxAttempts ≤ s.att + 1) :
    step s = .next (retire (raiseReader
      (.readTimeout (afterReads [d] more s).att (afterReads [d] more s).rbuf.length) (afterReads [d] more s))) := by
  have he := (readIteration_dataRead ht hreads).trans (receive_spent hc hm)
  rw [step_reading h.valid h.turns h.rphase, he, retireIfEnded_of_idle (raiseReader_isIdle _ _)]
  rfl

end

/-- While the frame stays incomplete and the budget lasts, each data read is one step. -/
theorem runSteps_afterReads {ds : List DataRead} (h : Reading s r rest) (ht : s.tstate = .opened)
    (hreads : s.reads = dataReads ds ++ more)
    (hc : complete (s.rbuf ++ streamTaken s.params.chunk s.inbound ds) = false)
    (hm : s.att + ds.length < s.params.maxAttempts) :
    runSteps ds.length s = .next (afterReads ds more s) ∧ Reading (afterReads ds more s) r rest := by
  induction ds generalizing s with
  | nil =>
    obtain rfl : s.reads = more := hreads
    rw [afterReads_nil]
    exact ⟨rfl, h⟩
  | cons d ds ih =>
    rw [streamTaken_cons, ← List.append_assoc] at hc
    rw [List.length_cons] at hm
    obtain ⟨hstep, hgoes⟩ := step_dataRead_goes_on (more := dataReads ds ++ more) h ht hreads (incomplete_of_append hc)
      (by omega)
    obtain ⟨hrun, hend⟩ := ih hgoes ht rfl hc (by simp only [afterReads, List.length_singleton]; omega)
    rw [afterReads_append, List.singleton_append] at hrun hend
    exact ⟨(runSteps_of_step hstep _).trans hrun, hend⟩

/-- A read that returns data until its frame is complete. -/
theorem runSteps_reads_complete {before : List DataRead} {last : DataRead} (h : Reading s r rest)
    (ht : s.tstate = .opened) (hreads : s.reads = dataReads (before ++ [last]) ++ more)
    (hbefore : complete (s.rbuf ++ streamTaken s.params.chunk s.inbound before) = false)
    (hlast : complete (s.rbuf ++ streamTaken s.params.chunk s.inbound (before ++ [last])) = true)
    (hm : s.att + before.length < s.params.maxAttempts) :
    runSteps (before.length + 1) s = .next (completed (afterReads (before ++ [last]) more s)) := by
  rw [dataReads_append, List.append_assoc] at hreads
  rw [streamTaken_append, ← List.append_assoc] at hlast
  obtain ⟨hrun, hend⟩ := runSteps_afterReads h ht hreads hbefore hm
  have hstep := step_dataRead_completes hend ht rfl hlast
  rw [afterReads_append] at hstep
  exact runSteps_trans hrun (runSteps_one hstep)

/-- A read that returns data until its budget is spent. -/
theorem runSteps_reads_spent {before : List DataRead} {last : DataRead} (h : Reading s r rest) (ht : s.tstate = .opened)
    (hreads : s.reads = dataReads (before ++ [last]) ++ more)
    (hc : complete (s.rbuf ++ streamTaken s.params.chunk s.inbound (before ++ [last])) = false)
    (hm : s.params.maxAttempts = s.att + before.length + 1) :
    runSteps (before.length + 1) s = .next (retire (raiseReader
      (.readTimeout (afterReads (before ++ [last]) more s).att (afterReads (before ++ [last]) more s).rbuf.length)
      (afterReads (before ++ [last]) more s))) := by
  rw [dataReads_append, List.append_assoc] at hreads
  rw [streamTaken_append, ← List.append_assoc] at hc
  obtain ⟨hrun, hend⟩ := runSteps_afterReads h ht hreads (incomplete_of_append hc) (by omega)
  have hstep := step_dataRead_spent hend ht rfl hc hm.le
  rw [afterReads_append] at hstep
  exact runSteps_trans hrun (runSteps_one hstep)

end

/-! ## READ_FRAME and EXCHANGE over data reads -/

/-- Settles O36: the chunk that reaches the least complete length completes the frame, and none before it does. -/
theorem readFrameJoinsChunks : Obligations.ReadFrameJoinsChunks := by
  intro s r rest ha hd ht
  have hs := Serves.of_accepts ha
  obtain ⟨hl, hx⟩ := free_and_idle_of_accepts ha
  have hstart := step_readFrame_starts ha hd
  have h : Reading (beginRead { s with lock := .held }) r rest := .of_beginRead ⟨hs.valid, hs.turns, hs.port⟩ rfl
  refine ⟨?_, ?_⟩
  · intro before last more k stream i j hreads hk hleast hi hj hm
    have hbefore : complete (streamTaken s.params.chunk s.inbound before) = false := by
      rw [streamTaken_eq_take_append _ _ before [last]]
      exact hleast i hi
    have hlast : complete (stream.take j) = true := by
      rw [← Nat.add_sub_cancel' hj, List.take_add]
      exact completenessIsNeverLost _ _ hk
    have hrun := runSteps_reads_complete h ht hreads hbefore hlast (by simp; omega)
    have hdone : Serves (completed (afterReads (before ++ [last]) more (beginRead { s with lock := .held }))) r rest :=
      ⟨hs.valid, hs.turns, hs.port⟩
    have hreturn := step_readFrame_returns hdone hd rfl rfl
    have hwhole := runSteps_trans (runSteps_trans (runSteps_one hstart) hrun) (runSteps_one hreturn)
    rw [show before.length + 3 = 1 + (before.length + 1) + 1 by omega, hwhole]
    simp [completed, afterReads, beginRead, streamTaken, streamLeft, stream, j, hl, hx]
  · intro ds more stream j hreads hm hc
    obtain ⟨hattempts, -⟩ := valid_pos hs.valid
    obtain ⟨before, last, rfl⟩ := (List.eq_nil_or_concat' ds).resolve_left (List.ne_nil_of_length_pos (by omega))
    rw [List.length_append, List.length_singleton] at hm
    have hrun := runSteps_reads_spent h ht hreads hc (by simp; omega)
    rw [← hm, Nat.add_comm, runSteps_trans (runSteps_one hstart) hrun]
    simp [retire, raiseReader, raise, endOperation, afterReads, beginRead, streamTaken, streamLeft, stream, j, hl, hx,
      hs.port]

/-- The state of an exchange whose frame `f` has been written and whose read starts. -/
def awaitingResponse (f : List Byte) (writes : List TxChoice) (s : State) : State :=
  beginRead { s with txf := f, lock := .held, xphase := .read, outbound := s.outbound ++ f, writes := writes }

/-- Two steps take an exchange to its write, and one makes it. -/
theorem runSteps_exchange_to_read {s : State} {r : Request} {rest : List Request} {cmd : Half} {segs : List (List Byte)}
    {f : List Byte} {writes : List TxChoice} (ha : Accepts s r rest) (hd : decodeRequest r = .exchange cmd segs)
    (hf : encodeFrame cmd segs = .ok f) (ht : s.tstate = .opened) (hwrites : s.writes = .ok :: writes) :
    runSteps 3 s = .next (awaitingResponse f writes s) ∧ Reading (awaitingResponse f writes s) r rest := by
  have hs := Serves.of_accepts ha
  have hs' : Serves { s with txf := f, lock := .held, xphase := .write } r rest := ⟨hs.valid, hs.turns, hs.port⟩
  have hr := not_reading_of_accepts ha
  have hexec : exec (decodeRequest r) { s with txf := f, lock := .held, xphase := .write } =
      .next (awaitingResponse f writes s) := by
    rw [hd, exec_exchange_write _ _ rfl, exchangeWrite_ok (by exact ht) (by exact hwrites)]
    rfl
  have hreads : Reading (awaitingResponse f writes s) r rest := .of_beginRead ⟨hs.valid, hs.turns, hs.port⟩ rfl
  have hwrite := step_of_busy hs' hr hexec (busy_of_held hreads.lock)
  exact ⟨runSteps_trans (runSteps_exchange_to_write ha hd hf) (runSteps_one hwrite), hreads⟩

/-- Settles O42: three steps to the read, the reads, and two to the result. -/
theorem exchangeReturnsDecodedResponse : Obligations.ExchangeReturnsDecodedResponse := by
  intro s r rest cmd segs f before last writes reads stream i j ha hd hf ht hwrites hreads hbefore hlast hm
  obtain ⟨hl, hx⟩ := free_and_idle_of_accepts ha
  obtain ⟨hstart, h⟩ := runSteps_exchange_to_read ha hd hf ht hwrites
  rw [← streamTaken_eq_take_append _ _ before [last]] at hbefore
  have hrun := runSteps_reads_complete h ht hreads hbefore hlast (by simp [awaitingResponse]; omega)
  have hdone : Serves (completed (afterReads (before ++ [last]) reads (awaitingResponse f writes s))) r rest :=
    ⟨h.valid, h.turns, h.port⟩
  have hdecodes := runSteps_exchange_decodes hdone hd rfl rfl
  rw [show before.length + 6 = 3 + (before.length + 1) + 2 by omega,
    runSteps_trans (runSteps_trans hstart hrun) hdecodes]
  simp [completed, afterReads, awaitingResponse, beginRead, streamTaken, streamLeft, stream, j, hl, hx]

end Sys2Proof.Machine
end
